-- ==== Sys2Proof/Word.lean ====
section
/-! DEFINITION. The word types of ATE-1: register words, bytes, channel values, and the pixel. -/

namespace Sys2Proof

/-- A 32-bit register or command word (10_state.md R41, 30_encoding.md R120). -/
abbrev Word := BitVec 32

/-- One byte of memory (20_memory.md R93). -/
abbrev Byte := BitVec 8

/-- A channel value 0..65535 standing for [0.0, 1.0] (00_scope.md R12). -/
abbrev U16 := BitVec 16

/-- A pixel: four channel values (00_scope.md R13). -/
structure Pixel where
  r : U16
  g : U16
  b : U16
  a : U16
deriving DecidableEq, Repr, Inhabited

end Sys2Proof
end

