-- ==== Sys2Proof/Syntax.lean ====
section
/-! DEFINITION. The syntax of ATE-1's command set: one constructor of `Instr` per row of the opcode
map (30_encoding.md R130), its operands the fields the row uses. -/

namespace Sys2Proof

/-- A texture descriptor slot number 0..7 (30_encoding.md R122). -/
abbrev Slot := BitVec 3

/-- The wrap bits of the sampler mode: `true` clamps the axis to the edge, `false` wraps it
(30_encoding.md R124: M[0] for x, M[1] for y). -/
structure Wrap where
  clampU : Bool
  clampV : Bool
deriving DecidableEq, Repr, Inhabited

/-- The sampler mode M: the wrap bits and M[2], which selects bilinear filtering
(30_encoding.md R124). -/
structure Mode where
  wrap : Wrap
  bilinear : Bool
deriving DecidableEq, Repr, Inhabited

/-- The twelve blend modes of PASTE, S = 0..11 in this order (44_combiners.md R340 to R351). -/
inductive Blend where
  | add | sub | mulc | min | max | setalpha | prealpha | over | multiply | screen | darken | lighten
deriving DecidableEq, Repr, Inhabited

/-- The 26 commands of ATE-1 revision 1 (00_scope.md R4, 30_encoding.md R130). -/
inductive Instr where
  | nop
  | smpNearest (a : Slot) (wm : Wrap)
  | smpBilinear (a : Slot) (wm : Wrap)
  | smpFiltered (a : Slot) (m : Mode)
  | smpGradient (a : Slot)
  | pixInit8
  | pixInit32
  | pixLerp
  | pixAdd
  | pixMulc
  | pixOver
  | pixScreen
  | texCopy (d a : Slot)
  /-- S[0] = `abs`, S[1] = `normalize`, S[2] = `bandlimit` (42_generators.md R239). -/
  | noise (d a : Slot) (abs normalize bandlimit : Bool)
  | cells (d a : Slot) (outer : Bool)
  | glowrect (d a b : Slot)
  | colorMatrix (d a : Slot) (premult : Bool)
  | coordMatrix (d a : Slot) (m : Mode)
  | colorRemap (d a b c e : Slot)
  | coordRemap (d a b : Slot) (m : Mode)
  | derive (d a : Slot) (normals : Bool)
  | blur (d a : Slot) (wm : Wrap)
  | ternary (d a b c : Slot) (select : Bool)
  | paste (d a b : Slot) (m : Mode) (op : Blend)
  /-- S[0] = `directional`, S[1] = `spec`, S[2] = `falloff`; slot C is the specular gradient and
  slot E the falloff gradient (44_combiners.md R363). -/
  | bump (d a b c e : Slot) (directional spec falloff : Bool)
  | linearCombine (d : Slot)
deriving DecidableEq, Repr, Inhabited

end Sys2Proof
end

