-- ==== Sys2Proof/Machine/Types.lean ====
section
/-! DEFINITION. The plain data the machine's state is built from: texture operands, descriptors, the
fields of CTRL and STATUS, list records, error codes, and the inputs of the machine. -/

namespace Sys2Proof.Machine

/-- The error codes of 60_exceptions.md R401, 0x01 to 0x0B in this order. -/
inductive ErrCode where
  | opcode | reserved | subop | texsize | texaddr | mismatch | param | coef | count | align | bus
deriving DecidableEq, Repr, Inhabited

/-- `raise Error(code, info)`: a code and the ERRINFO word (60_exceptions.md R402, R403). -/
structure CmdError where
  code : ErrCode
  info : Word
deriving DecidableEq, Repr, Inhabited

/-- A texture operand: byte address of texel (0, 0), `ShiftX`, `ShiftY` (00_scope.md R16). -/
structure Tex where
  base : Nat
  sx : Nat
  sy : Nat
deriving DecidableEq, Repr, Inhabited

/-- A descriptor slot: TD_BASE bits 31:3 and TD_SIZE bits 3:0 and 11:8, the only bits of the two
registers that hold anything (10_state.md R55). -/
structure Desc where
  base : BitVec 29
  sx : BitVec 4
  sy : BitVec 4
deriving DecidableEq, Repr, Inhabited

/-- The stored fields of CTRL (10_state.md R43). -/
structure Ctrl where
  ieDone : Bool
  ieErr : Bool
deriving DecidableEq, Repr, Inhabited

/-- The fields of STATUS (10_state.md R44). -/
structure Status where
  busy : Bool
  done : Bool
  err : Bool
  ovr : Bool
  permReady : Bool
  errcode : BitVec 8
deriving DecidableEq, Repr, Inhabited

/-- The operands copied at the acceptance of a command (10_state.md R56). -/
structure Snapshot where
  cmd : Word
  td : Vector Desc 8
  param : Vector Word 64
deriving DecidableEq, Repr

/-- A CELLS list record (42_generators.md R241). -/
structure CellRecord where
  cx : Word
  cy : Word
  color : Pixel
deriving DecidableEq, Repr, Inhabited

/-- A LINEAR.COMBINE list record (44_combiners.md R370). -/
structure InputRecord where
  base : Word
  size : Word
  weight : Word
  us : Word
  vs : Word
  last : Word
deriving DecidableEq, Repr, Inhabited

/-- The scratch storage of 10_state.md R61. -/
structure Scratch where
  lineA : List Pixel
  lineB : List Pixel
  cells : List CellRecord
  inputs : List InputRecord
deriving DecidableEq, Repr, Inhabited

/-- A range of byte addresses, `base` to `base + len - 1`. -/
structure Extent where
  base : Nat
  len : Nat
deriving DecidableEq, Repr, Inhabited

/-- What an offset of the register block names (10_state.md R41). -/
inductive Reg where
  | id | version | ctrl | status | cmd | errinfo | resRg | resBa
  | tdBase (n : Slot)
  | tdSize (n : Slot)
  | param (k : BitVec 6)
  | reserved
deriving DecidableEq, Repr, Inhabited

/-- The width of a host bus access (10_state.md R49, 20_memory.md R113). -/
inductive Width where
  | w8 | w16 | w32 | w64
deriving DecidableEq, Repr, Inhabited

/-- What the memory port answers to the accesses of a command (60_exceptions.md R406): no error, an
error on the pre-flight read of list record `k`, or an error on some access of the body. -/
inductive PortAnswer where
  | ok
  | listError (k : Nat)
  | bodyError
deriving DecidableEq, Repr, Inhabited

/-- One move of an agent other than the engine, or the engine's turn (log 6). -/
inductive Input where
  /-- The host writes `v` at bus address `addr`. -/
  | busWrite (addr : Nat) (w : Width) (v : BitVec 64)
  /-- The host reads at bus address `addr`. -/
  | busRead (addr : Nat) (w : Width)
  /-- The memory port's answers from here on. -/
  | port (p : PortAnswer)
  /-- The level of the reset input (70_reset_and_hazards.md R450). -/
  | resetPin (asserted : Bool)
  /-- The engine's turn. -/
  | engine
deriving DecidableEq, Repr, Inhabited

end Sys2Proof.Machine
end

