-- ==== Sys2Proof/WellFormed.lean ====
section
/-! DEFINITION. Which terms of `Instr` are commands: all of them, but for BUMP's two conditionally
unused fields (30_encoding.md R126). Every other field is exactly as wide as its type. -/

namespace Sys2Proof

/-- R126, first half: without a specular map, field C must be zero. -/
def Instr.unusedCZero : Instr → Bool
  | .bump _ _ _ c _ _ spec _ => spec || c == 0
  | .nop | .smpNearest .. | .smpBilinear .. | .smpFiltered .. | .smpGradient .. | .pixInit8 | .pixInit32
  | .pixLerp | .pixAdd | .pixMulc | .pixOver | .pixScreen | .texCopy .. | .noise .. | .cells ..
  | .glowrect .. | .colorMatrix .. | .coordMatrix .. | .colorRemap .. | .coordRemap .. | .derive ..
  | .blur .. | .ternary .. | .paste .. | .linearCombine .. => true

/-- R126, second half: without a falloff map, field E must be zero. -/
def Instr.unusedEZero : Instr → Bool
  | .bump _ _ _ _ e _ _ falloff => falloff || e == 0
  | .nop | .smpNearest .. | .smpBilinear .. | .smpFiltered .. | .smpGradient .. | .pixInit8 | .pixInit32
  | .pixLerp | .pixAdd | .pixMulc | .pixOver | .pixScreen | .texCopy .. | .noise .. | .cells ..
  | .glowrect .. | .colorMatrix .. | .coordMatrix .. | .colorRemap .. | .coordRemap .. | .derive ..
  | .blur .. | .ternary .. | .paste .. | .linearCombine .. => true

/-- The well-formed commands. -/
def Instr.wf (i : Instr) : Bool := i.unusedCZero && i.unusedEZero

end Sys2Proof
end

