-- ==== Sys2Proof/Decode.lean ====
section
/-! DEFINITION. Decoding a command word (30_encoding.md R121 to R131), total on all 2^32 words, and the
encoder written from the same table. -/

namespace Sys2Proof

open Machine (CmdError ErrCode)

/-! ## The fields of the command word (R121) -/

def opField (w : Word) : BitVec 8 := w.extractLsb' 0 8
def dField (w : Word) : Slot := w.extractLsb' 8 3
def aField (w : Word) : Slot := w.extractLsb' 11 3
def bField (w : Word) : Slot := w.extractLsb' 14 3
def cField (w : Word) : Slot := w.extractLsb' 17 3
def eField (w : Word) : Slot := w.extractLsb' 20 3

/-- M[1:0] (R124). -/
def wrapField (w : Word) : Wrap := ⟨w.getLsbD 23, w.getLsbD 24⟩

/-- M (R124). -/
def modeField (w : Word) : Mode := ⟨wrapField w, w.getLsbD 25⟩

/-- S[k], bit 26 + k (R121). -/
def subBit (w : Word) (k : Nat) : Bool := w.getLsbD (26 + k)

/-- S as a number (R125). -/
def subField (w : Word) : BitVec 6 := w.extractLsb' 26 6

/-- The blend mode numbered `s`; the numbers 12 to 63 name none (R125, 90_conflicts.md C1). -/
def blendOfNumber (s : BitVec 6) : Option Blend :=
  match s.toNat with
  | 0 => some .add
  | 1 => some .sub
  | 2 => some .mulc
  | 3 => some .min
  | 4 => some .max
  | 5 => some .setalpha
  | 6 => some .prealpha
  | 7 => some .over
  | 8 => some .multiply
  | 9 => some .screen
  | 10 => some .darken
  | 11 => some .lighten
  | _ => none

/-- The number of a blend mode (44_combiners.md R340 to R351). -/
def blendNumber : Blend → BitVec 6
  | .add => 0
  | .sub => 1
  | .mulc => 2
  | .min => 3
  | .max => 4
  | .setalpha => 5
  | .prealpha => 6
  | .over => 7
  | .multiply => 8
  | .screen => 9
  | .darken => 10
  | .lighten => 11

/-! ## Decoding -/

/-- What a command word is: a command, or the error its decoding raises (R131). -/
inductive Decoded where
  | command (i : Instr)
  | error (e : CmdError)
deriving DecidableEq, Repr

/-- The position of the lowest set bit of `w` at or above position `k`, `fuel` positions looked at. -/
def lowestFrom (w : Word) (k : Nat) : Nat → Nat
  | 0 => k
  | fuel + 1 => if w.getLsbD k then k else lowestFrom w (k + 1) fuel

/-- The position of the lowest set bit of `w` (of a word that has one). -/
def lowestSet (w : Word) : Nat := lowestFrom w 0 32

/-- `E_RESERVED` for the bit at position `k` of the command word (R123, 60_exceptions.md R403). -/
def reservedError (k : Nat) : CmdError := ⟨.reserved, BitVec.ofNat 32 k⟩

/-- R123: the word is well formed only if `w & mask = match`; else `E_RESERVED` with the lowest
non-zero unused bit. -/
def masked (w pattern mask : Word) (d : Decoded) : Decoded :=
  if w &&& mask = pattern then d else .error (reservedError (lowestSet ((w &&& mask) ^^^ pattern)))

/-- R126: BUMP's conditionally unused fields C and E. -/
def checkBump (i : Instr) : Decoded :=
  if i.unusedCZero then
    if i.unusedEZero then .command i else .error (reservedError 20)
  else .error (reservedError 17)

/-- R125: PASTE with a blend-mode number 12..63 is `E_SUBOP`. -/
def checkBlend (s : BitVec 6) (i : Blend → Instr) : Decoded :=
  match blendOfNumber s with
  | some op => .command (i op)
  | none => .error ⟨.subop, 0⟩

/-- The decoding of a command word, in the order of R131, with the rows of R130. -/
def decode (w : Word) : Decoded :=
  match (opField w).toNat with
  | 0x00 => masked w 0x00000000 0xFFFFFFFF (.command .nop)
  | 0x01 => masked w 0x00000001 0xFE7FC7FF (.command (.smpNearest (aField w) (wrapField w)))
  | 0x02 => masked w 0x00000002 0xFE7FC7FF (.command (.smpBilinear (aField w) (wrapField w)))
  | 0x03 => masked w 0x00000003 0xFC7FC7FF (.command (.smpFiltered (aField w) (modeField w)))
  | 0x04 => masked w 0x00000004 0xFFFFC7FF (.command (.smpGradient (aField w)))
  | 0x08 => masked w 0x00000008 0xFFFFFFFF (.command .pixInit8)
  | 0x09 => masked w 0x00000009 0xFFFFFFFF (.command .pixInit32)
  | 0x0A => masked w 0x0000000A 0xFFFFFFFF (.command .pixLerp)
  | 0x0B => masked w 0x0000000B 0xFFFFFFFF (.command .pixAdd)
  | 0x0C => masked w 0x0000000C 0xFFFFFFFF (.command .pixMulc)
  | 0x0D => masked w 0x0000000D 0xFFFFFFFF (.command .pixOver)
  | 0x0E => masked w 0x0000000E 0xFFFFFFFF (.command .pixScreen)
  | 0x10 => masked w 0x00000010 0xFFFFC0FF (.command (.texCopy (dField w) (aField w)))
  | 0x20 => masked w 0x00000020 0xE3FFC0FF
      (.command (.noise (dField w) (aField w) (subBit w 0) (subBit w 1) (subBit w 2)))
  | 0x21 => masked w 0x00000021 0xFBFFC0FF (.command (.cells (dField w) (aField w) (subBit w 0)))
  | 0x22 => masked w 0x00000022 0xFFFE00FF (.command (.glowrect (dField w) (aField w) (bField w)))
  | 0x30 => masked w 0x00000030 0xFBFFC0FF (.command (.colorMatrix (dField w) (aField w) (subBit w 0)))
  | 0x31 => masked w 0x00000031 0xFC7FC0FF (.command (.coordMatrix (dField w) (aField w) (modeField w)))
  | 0x32 => masked w 0x00000032 0xFF8000FF
      (.command (.colorRemap (dField w) (aField w) (bField w) (cField w) (eField w)))
  | 0x33 => masked w 0x00000033 0xFC7E00FF
      (.command (.coordRemap (dField w) (aField w) (bField w) (modeField w)))
  | 0x34 => masked w 0x00000034 0xFBFFC0FF (.command (.derive (dField w) (aField w) (subBit w 0)))
  | 0x35 => masked w 0x00000035 0xFE7FC0FF (.command (.blur (dField w) (aField w) (wrapField w)))
  | 0x40 => masked w 0x00000040 0xFBF000FF
      (.command (.ternary (dField w) (aField w) (bField w) (cField w) (subBit w 0)))
  | 0x41 => masked w 0x00000041 0x007E00FF
      (checkBlend (subField w) (.paste (dField w) (aField w) (bField w) (modeField w)))
  | 0x42 => masked w 0x00000042 0xE38000FF
      (checkBump (.bump (dField w) (aField w) (bField w) (cField w) (eField w)
        (subBit w 0) (subBit w 1) (subBit w 2)))
  | 0x43 => masked w 0x00000043 0xFFFFF8FF (.command (.linearCombine (dField w)))
  | _ => .error ⟨.opcode, 0⟩

/-! ## Encoding -/

/-- The field value `x` at bit position `k` of a 32-bit word, every other bit 0. -/
def place {n : Nat} (x : BitVec n) (k : Nat) : Word := x.setWidth 32 <<< k

/-- A command word put together from its fields (R121). -/
def wordOf (op : BitVec 8) (d a b c e : Slot) (m : BitVec 3) (s : BitVec 6) : Word :=
  place op 0 ||| place d 8 ||| place a 11 ||| place b 14 ||| place c 17 ||| place e 20 ||| place m 23
    ||| place s 26

/-- The 3-bit number of its bits 2, 1 and 0. -/
def numberOf (x2 x1 x0 : Bool) : BitVec 3 :=
  BitVec.ofNat 3 (4 * x2.toNat + 2 * x1.toNat + x0.toNat)

/-- M from its bits, M[2] = 0 where the command uses M[1:0] only (R124). -/
def wrapBits (wm : Wrap) : BitVec 3 := numberOf false wm.clampV wm.clampU

def modeBits (m : Mode) : BitVec 3 := numberOf m.bilinear m.wrap.clampV m.wrap.clampU

/-- S from its three lowest bits (R125). -/
def subBits (s0 s1 s2 : Bool) : BitVec 6 := (numberOf s2 s1 s0).setWidth 6

/-- The word of a command (R121, R130). -/
def encode : Instr → Word
  | .nop => wordOf 0x00 0 0 0 0 0 0 0
  | .smpNearest a wm => wordOf 0x01 0 a 0 0 0 (wrapBits wm) 0
  | .smpBilinear a wm => wordOf 0x02 0 a 0 0 0 (wrapBits wm) 0
  | .smpFiltered a m => wordOf 0x03 0 a 0 0 0 (modeBits m) 0
  | .smpGradient a => wordOf 0x04 0 a 0 0 0 0 0
  | .pixInit8 => wordOf 0x08 0 0 0 0 0 0 0
  | .pixInit32 => wordOf 0x09 0 0 0 0 0 0 0
  | .pixLerp => wordOf 0x0A 0 0 0 0 0 0 0
  | .pixAdd => wordOf 0x0B 0 0 0 0 0 0 0
  | .pixMulc => wordOf 0x0C 0 0 0 0 0 0 0
  | .pixOver => wordOf 0x0D 0 0 0 0 0 0 0
  | .pixScreen => wordOf 0x0E 0 0 0 0 0 0 0
  | .texCopy d a => wordOf 0x10 d a 0 0 0 0 0
  | .noise d a abs normalize bandlimit => wordOf 0x20 d a 0 0 0 0 (subBits abs normalize bandlimit)
  | .cells d a outer => wordOf 0x21 d a 0 0 0 0 (subBits outer false false)
  | .glowrect d a b => wordOf 0x22 d a b 0 0 0 0
  | .colorMatrix d a premult => wordOf 0x30 d a 0 0 0 0 (subBits premult false false)
  | .coordMatrix d a m => wordOf 0x31 d a 0 0 0 (modeBits m) 0
  | .colorRemap d a b c e => wordOf 0x32 d a b c e 0 0
  | .coordRemap d a b m => wordOf 0x33 d a b 0 0 (modeBits m) 0
  | .derive d a normals => wordOf 0x34 d a 0 0 0 0 (subBits normals false false)
  | .blur d a wm => wordOf 0x35 d a 0 0 0 (wrapBits wm) 0
  | .ternary d a b c select => wordOf 0x40 d a b c 0 0 (subBits select false false)
  | .paste d a b m op => wordOf 0x41 d a b 0 0 (modeBits m) (blendNumber op)
  | .bump d a b c e directional spec falloff =>
      wordOf 0x42 d a b c e 0 (subBits directional spec falloff)
  | .linearCombine d => wordOf 0x43 d 0 0 0 0 0 0

/-- The opcode map's (match, mask) pair of each command (R130). -/
def matchMask : Instr → Word × Word
  | .nop => (0x00000000, 0xFFFFFFFF)
  | .smpNearest .. => (0x00000001, 0xFE7FC7FF)
  | .smpBilinear .. => (0x00000002, 0xFE7FC7FF)
  | .smpFiltered .. => (0x00000003, 0xFC7FC7FF)
  | .smpGradient .. => (0x00000004, 0xFFFFC7FF)
  | .pixInit8 => (0x00000008, 0xFFFFFFFF)
  | .pixInit32 => (0x00000009, 0xFFFFFFFF)
  | .pixLerp => (0x0000000A, 0xFFFFFFFF)
  | .pixAdd => (0x0000000B, 0xFFFFFFFF)
  | .pixMulc => (0x0000000C, 0xFFFFFFFF)
  | .pixOver => (0x0000000D, 0xFFFFFFFF)
  | .pixScreen => (0x0000000E, 0xFFFFFFFF)
  | .texCopy .. => (0x00000010, 0xFFFFC0FF)
  | .noise .. => (0x00000020, 0xE3FFC0FF)
  | .cells .. => (0x00000021, 0xFBFFC0FF)
  | .glowrect .. => (0x00000022, 0xFFFE00FF)
  | .colorMatrix .. => (0x00000030, 0xFBFFC0FF)
  | .coordMatrix .. => (0x00000031, 0xFC7FC0FF)
  | .colorRemap .. => (0x00000032, 0xFF8000FF)
  | .coordRemap .. => (0x00000033, 0xFC7E00FF)
  | .derive .. => (0x00000034, 0xFBFFC0FF)
  | .blur .. => (0x00000035, 0xFE7FC0FF)
  | .ternary .. => (0x00000040, 0xFBF000FF)
  | .paste .. => (0x00000041, 0x007E00FF)
  | .bump .. => (0x00000042, 0xE38000FF)
  | .linearCombine .. => (0x00000043, 0xFFFFF8FF)

/-- The instruction the decoder reads from the command word `w` (a command is one 32-bit word, R120). -/
def decodeTableWord (_nbits w : Nat) : Option Instr :=
  match decode (BitVec.ofNat 32 w) with
  | .command i => some i
  | .error _ => none

end Sys2Proof
end

