-- ==== Sys2Proof/Config.lean ====
section
/-! DEFINITION. What an implementation of ATE-1 fixes: the size limits of 00_scope.md R9, the named
parameters (held in State, log 5), and the free values the spec leaves open (no body: nothing can be
proved of one). -/

namespace Sys2Proof

/-- `TEX_MAX_LOG2`, the largest legal `ShiftX` and `ShiftY` (00_scope.md R9). -/
abbrev Config.texMaxLog2 : Nat := 12

/-- `CELLS_MAX` (00_scope.md R9). -/
abbrev Config.cellsMax : Nat := 256

/-- `LC_MAX` (00_scope.md R9). -/
abbrev Config.lcMax : Nat := 255

/-- `OCT_MAX` (00_scope.md R9). -/
abbrev Config.octMax : Nat := 16

/-- `FREQ_MAX` (00_scope.md R9). -/
abbrev Config.freqMax : Nat := 12

/-- `BLUR_ORDER_MAX` (00_scope.md R9). -/
abbrev Config.blurOrderMax : Nat := 255

/-- `GRAD_INSET`, the top-end handling of gradient sampling (41_sampler.md R197). -/
inductive GradInset where
  | ulp
  | scale
deriving DecidableEq, Repr, Inhabited

/-- The named parameters P1 to P4 of 93_implementation_defined.md, and the platform's windows of
addresses with side effects (20_memory.md R99). -/
structure Config where
  gradInset : GradInset
  permSeed : Word
  permTaps : Word
  /-- REG_BASE divided by 4096, so that the block is 4096-aligned (P4). -/
  regPage : Nat
  windows : List Machine.Extent
deriving DecidableEq, Repr

/-- The defaults of P1 to P3 (00_scope.md R9). DESIGN CHOICE (log 5), unsafe: the spec gives REG_BASE
no default and names no window; here the block stands just past the memory space and no window exists. -/
def Config.standard : Config where
  gradInset := .ulp
  permSeed := 0x2545F491
  permTaps := 0x80200003
  regPage := 0x100000
  windows := []

/-- Free value (log 9, log 10, log 12): the pixel at an index of a destination extent that the spec says
'holds any value' (60_exceptions.md R406, 70_reset_and_hazards.md R453, 20_memory.md R108).
First argument: the counter `freeIx`. Second: the texel's byte address. -/
opaque Config.freePixel : Nat → Nat → Pixel

/-- Free value (log 12): a byte that a racing host write leaves 'with any value' (20_memory.md R108).
First argument: the counter `freeIx`. Second: the byte's address. -/
opaque Config.freeByte : Nat → Nat → Byte

/-- Free value (log 12): what a racing host read returns, of which the access takes its width
(20_memory.md R108). -/
opaque Config.freeBits : Nat → BitVec 64

/-- Free value (log 11): what a register read returns while the reset input is asserted
(70_reset_and_hazards.md R450). -/
opaque Config.freeWord : Nat → Word

/-- Free value (log 4): what the scratch storage holds outside the command that fills it
(10_state.md R61). -/
opaque Config.freeScratch : Nat → Machine.Scratch

end Sys2Proof
end

