-- ==== Sys2Proof/Machine/State.lean ====
section
/-! DEFINITION. The machine's state as plain data, the state after reset, and the reasons a step can
stop (10_state.md, 70_reset_and_hazards.md R450, R451). -/

namespace Sys2Proof.Machine

/-- The bytes of the memory space that differ from what an unlisted address reads as, at strictly
rising addresses (20_memory.md R90). -/
abbrev Memory := List Host.Cell

/-- The state of ATE-1 and of the platform it stands in. Widths, rules and reset values: INVENTORY.md. -/
structure State where
  /-- Parameters of the implementation and the platform; no step changes them (log 5). -/
  cfg : Config
  ctrl : Ctrl
  status : Status
  cmd : Word
  errinfo : Word
  resRg : Word
  resBa : Word
  td : Vector Desc 8
  param : Vector Word 64
  /-- The operands of the running command (10_state.md R56). -/
  snap : Snapshot
  /-- The permutation table PT, in use only while PERM_READY = 1 (10_state.md R60). -/
  perm : Array (BitVec 12)
  scratch : Scratch
  mem : Memory
  /-- The reset input is asserted (70_reset_and_hazards.md R450). -/
  rst : Bool
  /-- The model's own: what the memory port answers during a command (log 8). -/
  port : PortAnswer
  /-- The model's own: the moves still to come (log 6). -/
  inputs : List Input
  /-- The model's own: the addresses of the bytes of the running command that a racing host write has
  written; they take any value when the command ends (20_memory.md R108, log 12). -/
  raced : List Nat
  /-- The model's own: what the host's last bus read returned (log 18). -/
  hostData : BitVec 64
  /-- The model's own: the counter free values are drawn from (log 19). -/
  freeIx : Nat
deriving DecidableEq, Repr

/-- A snapshot of nothing. DESIGN CHOICE (log 2), unsafe: the spec leaves the snapshot unspecified
after reset; it is never read before the next acceptance overwrites it (R451). -/
def Snapshot.empty : Snapshot where
  cmd := 0
  td := Vector.replicate 8 ⟨0, 0, 0⟩
  param := Vector.replicate 64 0

/-- The machine on the release of reset (70_reset_and_hazards.md R450, R451). DESIGN CHOICE, unsafe,
where R451 gives no value: the snapshot (log 2), PT (log 3), the scratch storage (log 4), memory as
nothing listed (log 1), the platform (log 5), and the model's own fields (log 6, 8, 12, 18, 19). -/
def State.reset : State where
  cfg := Config.standard
  ctrl := ⟨false, false⟩
  status := ⟨false, false, false, false, false, 0⟩
  cmd := 0
  errinfo := 0
  resRg := 0
  resBa := 0
  td := Vector.replicate 8 ⟨0, 0, 0⟩
  param := Vector.replicate 64 0
  snap := Snapshot.empty
  perm := #[]
  scratch := ⟨[], [], [], []⟩
  mem := []
  rst := false
  port := .ok
  inputs := []
  raced := []
  hostData := 0
  freeIx := 0

/-- Why a step can fault. No command faults: every error of 60_exceptions.md R401 is a next state. -/
inductive Fault where
  /-- Raised by a host bus access that lies neither in the register block nor wholly in the 32-bit
  memory space (20_memory.md R90): it names no byte. Safe. -/
  | outsideMemory
deriving DecidableEq, Repr

/-- Why a step can be refused. -/
inductive Refusal where
  /-- Raised by an arm of `exec` whose instruction has no meaning yet. Safe. -/
  | notModelled (mnemonic : String)
  /-- Raised by a host register access that is not 32 bits wide or not 4-aligned: 'outside the
  contract [...] a model refuses it (no step)' (10_state.md R49). Safe. -/
  | registerAccess
  /-- Raised by a command whose texture or list meets a window of addresses with side effects:
  'outside the contract; a model refuses such a launch' (20_memory.md R99), and by a host access to
  such a window, which is no access of ATE-1's memory. Safe. -/
  | sideEffects
deriving DecidableEq, Repr

end Sys2Proof.Machine
end

