-- ==== Sys2Proof/Machine/Flags.lean ====
section
/-! DEFINITION. Every computation on STATUS, CTRL and the interrupt output (10_state.md R43 to R47, R65;
60_exceptions.md R400 to R410). No command's arithmetic touches a flag (R65). -/

namespace Sys2Proof.Machine

/-- The code of an error (60_exceptions.md R401). -/
def codeOf : ErrCode → BitVec 8
  | .opcode => 0x01
  | .reserved => 0x02
  | .subop => 0x03
  | .texsize => 0x04
  | .texaddr => 0x05
  | .mismatch => 0x06
  | .param => 0x07
  | .coef => 0x08
  | .count => 0x09
  | .align => 0x0A
  | .bus => 0x0B

/-- STATUS as the host reads it (10_state.md R44): ERRCODE in 15:8, PERM_READY, OVR, ERR, DONE, BUSY
in 4:0, every other bit 0. -/
def statusWord (f : Status) : Word :=
  place (BitVec.ofBool f.busy) 0 ||| place (BitVec.ofBool f.done) 1 ||| place (BitVec.ofBool f.err) 2
    ||| place (BitVec.ofBool f.ovr) 3 ||| place (BitVec.ofBool f.permReady) 4 ||| place f.errcode 8

/-- CTRL as the host reads it (10_state.md R43): IE_ERR in bit 1, IE_DONE in bit 0, every other bit 0. -/
def ctrlWord (c : Ctrl) : Word :=
  place (BitVec.ofBool c.ieDone) 0 ||| place (BitVec.ofBool c.ieErr) 1

/-- CTRL's stored fields after a write of `v` with bit 31 = 0 (10_state.md R43). -/
def ctrlOfWord (v : Word) : Ctrl := ⟨v.getLsbD 0, v.getLsbD 1⟩

/-- STATUS at acceptance: DONE <- 0, BUSY <- 1 (10_state.md R46). -/
def statusAccepted (f : Status) : Status := { f with busy := true, done := false }

/-- STATUS at normal completion: BUSY <- 0, DONE <- 1 (60_exceptions.md R400). -/
def statusFinished (f : Status) : Status := { f with busy := false, done := true }

/-- STATUS when an error ends a command: ERRCODE <- code if ERR = 0; ERR <- 1, BUSY <- 0, DONE <- 1
(60_exceptions.md R402, 10_state.md R45). -/
def statusFailed (f : Status) (c : ErrCode) : Status :=
  { f with busy := false, done := true, err := true, errcode := if f.err then f.errcode else codeOf c }

/-- STATUS after a dropped CMD write: OVR <- 1 (60_exceptions.md R407). -/
def statusOverrun (f : Status) : Status := { f with ovr := true }

/-- STATUS after a host write of `v`: DONE, ERR and OVR are cleared by a 1; a 1 to ERR also clears
ERRCODE; the other bits ignore the write (10_state.md R44). -/
def statusWritten (f : Status) (v : Word) : Status :=
  { f with
    done := f.done && !v.getLsbD 1
    err := f.err && !v.getLsbD 2
    ovr := f.ovr && !v.getLsbD 3
    errcode := if v.getLsbD 2 then 0 else f.errcode }

/-- STATUS once the permutation table is built (10_state.md R60). -/
def statusPermBuilt (f : Status) : Status := { f with permReady := true }

/-- STATUS when the engine is stopped without completion (70_reset_and_hazards.md R453: DONE is not
set and no error is recorded). -/
def statusStopped (f : Status) : Status := { f with busy := false }

/-- The interrupt output (60_exceptions.md R410). -/
def irq (s : State) : Bool :=
  (s.ctrl.ieDone && s.status.done) || (s.ctrl.ieErr && (s.status.err || s.status.ovr))

end Sys2Proof.Machine
end

