-- ==== Sys2Proof/Machine/Arith.lean ====
section
/-! DEFINITION. The arithmetic primitives of the pseudocode (00_scope.md R11): mathematical integers,
narrowed only where a rule says so. `a >>> n` on `Int` is the spec's floor shift. -/

namespace Sys2Proof.Machine

/-- `wrap32(v)`: two's complement reinterpretation (R11). -/
def wrap32 (v : Int) : Int := Int.bmod v (2 ^ 32)

/-- `u32(v)` (R11). -/
def u32 (v : Int) : Nat := (v % 2 ^ 32).toNat

/-- `a << n` (R11). -/
def shl (a : Int) (n : Nat) : Int := a * 2 ^ n

/-- `fdiv(a, b)` = floor(a / b) (R11). -/
def fdiv (a b : Int) : Int := Int.fdiv a b

/-- `tdiv(a, b)`: the quotient truncated toward zero (R11). -/
def tdiv (a b : Int) : Int := Int.tdiv a b

/-- `clamp(v, lo, hi)` (R11). -/
def clamp (v lo hi : Int) : Int := min (max v lo) hi

/-- `abs(v)` (R11). -/
def absInt (v : Int) : Int := max v (-v)

/-- `ceil(a / 2^16)` (42_generators.md R248). -/
def ceil16 (a : Int) : Int := -((-a) >>> (16 : Nat))

/-- One digit of the square root: whether bit `k` belongs to it, `r` being the bits above. -/
def isqrtBit (n r k : Nat) : Nat := if (r + 2 ^ k) * (r + 2 ^ k) ≤ n then r + 2 ^ k else r

/-- The bits of the square root of `n` below position `k`, `r` being the bits above. -/
def isqrtFrom (n r : Nat) : Nat → Nat
  | 0 => r
  | k + 1 => isqrtFrom n (isqrtBit n r k) k

/-- `isqrt(n)` = floor(sqrt(n)) (R11). -/
def isqrt (n : Nat) : Nat := isqrtFrom n 0 (n.log2 / 2 + 1)

/-- `sat(v)` = clamp(v, 0, 65535), narrowed to a channel value (40_pixel.md R160). -/
def sat (v : Int) : U16 := BitVec.ofInt 16 (clamp v 0 65535)

/-- A channel value whose rule says that it cannot leave 0..65535 (40_pixel.md R160, log 20). -/
def chan (v : Int) : U16 := BitVec.ofInt 16 v

/-- A channel value as an integer. -/
def ci (c : U16) : Int := (c.toNat : Int)

/-- `f 0`, then `f 1`, up to `f (n - 1)`, in this order (20_memory.md R105). -/
def loop {α : Type} : Nat → (Nat → α → α) → α → α
  | 0, _, x => x
  | n + 1, f, x => f n (loop n f x)

/-- The sum of `f 0` to `f (n - 1)`. -/
def sumTo : Nat → (Nat → Int) → Int
  | 0, _ => 0
  | n + 1, f => sumTo n f + f n

end Sys2Proof.Machine
end

