-- ==== Sys2Proof/Machine/Memory.lean ====
section
/-! DEFINITION. The memory space (20_memory.md): bytes, little-endian words, pixels and texels. -/

namespace Sys2Proof.Machine

/-- What an address that memory does not list reads as. DESIGN CHOICE (log 1), unsafe: the spec gives
no contents of memory at power-on. -/
def unlistedByte (_a : Nat) : Byte := 0

/-- The byte at address `a`. -/
def Memory.read : Memory → Nat → Byte
  | [], a => unlistedByte a
  | (k, v) :: m, a => if a = k then v else Memory.read m a

/-- The memory with byte `b` at address `a`; keeps the canonical form. -/
def Memory.write : Memory → Nat → Byte → Memory
  | [], a, b => if b = unlistedByte a then [] else [(a, b)]
  | (k, v) :: m, a, b =>
    if a < k then (if b = unlistedByte a then (k, v) :: m else (a, b) :: (k, v) :: m)
    else if a = k then (if b = unlistedByte a then m else (a, b) :: m)
    else (k, v) :: Memory.write m a b

/-- The canonical form: strictly rising addresses, and no entry equal to what an unlisted address
reads as. -/
abbrev Memory.wf (m : Memory) : Prop :=
  m.Pairwise (fun x y => x.1 < y.1) ∧ ∀ c ∈ m, c.2 ≠ unlistedByte c.1

/-- Every listed byte lies in the memory space (20_memory.md R90). -/
abbrev Memory.inSpace (m : Memory) : Prop := ∀ c ∈ m, c.1 < 2 ^ 32

/-- `MemRead(addr, n)`: the little-endian unsigned value of `n` bytes (R93). -/
def memRead (m : Memory) (addr : Nat) : Nat → Nat
  | 0 => 0
  | n + 1 => (m.read addr).toNat + 256 * memRead m (addr + 1) n

/-- `MemWrite(addr, n, v)`: the low `8n` bits of `v`, least significant byte first (R93). -/
def memWrite (m : Memory) (addr : Nat) (v : Nat) : Nat → Memory
  | 0 => m
  | n + 1 => memWrite (m.write addr (BitVec.ofNat 8 v)) (addr + 1) (v / 256) n

/-- The 64-bit word of a pixel, `{p.a, p.b, p.g, p.r}` (R94, R95). -/
def pixelWord (p : Pixel) : BitVec 64 :=
  p.r.setWidth 64 ||| p.g.setWidth 64 <<< 16 ||| p.b.setWidth 64 <<< 32 ||| p.a.setWidth 64 <<< 48

/-- The pixel of a 64-bit word (R94). -/
def pixelOfWord (w : BitVec 64) : Pixel :=
  ⟨w.extractLsb' 0 16, w.extractLsb' 16 16, w.extractLsb' 32 16, w.extractLsb' 48 16⟩

/-- The pixel at byte address `addr` (R94). -/
def pixelAt (m : Memory) (addr : Nat) : Pixel := pixelOfWord (BitVec.ofNat 64 (memRead m addr 8))

/-- The memory with pixel `p` at byte address `addr` (R94). -/
def putPixel (m : Memory) (addr : Nat) (p : Pixel) : Memory := memWrite m addr (pixelWord p).toNat 8

/-! ## Texture geometry and texels (41_sampler.md R190, 20_memory.md R95) -/

/-- `XRes`. -/
def Tex.w (t : Tex) : Nat := 2 ^ t.sx

/-- `YRes`. -/
def Tex.h (t : Tex) : Nat := 2 ^ t.sy

/-- `NPixels`. -/
def Tex.n (t : Tex) : Nat := t.w * t.h

/-- `MinX`, the half-texel offset (R190). -/
def Tex.minx (t : Tex) : Nat := 2 ^ (23 - t.sx)

/-- `MinY` (R190). -/
def Tex.miny (t : Tex) : Nat := 2 ^ (23 - t.sy)

/-- The byte address of texel (x, y) (20_memory.md R95). -/
def Tex.addr (t : Tex) (x y : Nat) : Nat := t.base + 8 * (y * 2 ^ t.sx + x)

/-- The byte range of a texture (20_memory.md R96). -/
def Tex.extent (t : Tex) : Extent := ⟨t.base, 8 * t.n⟩

/-- `TexRead(T, x, y)` (20_memory.md R95). -/
def texRead (m : Memory) (t : Tex) (x y : Nat) : Pixel := pixelAt m (t.addr x y)

/-- `TexWrite(T, x, y, p)` (20_memory.md R95). -/
def texWrite (m : Memory) (t : Tex) (x y : Nat) (p : Pixel) : Memory := putPixel m (t.addr x y) p

/-- Whether an address lies in a byte range. -/
abbrev Extent.has (e : Extent) (a : Nat) : Prop := e.base ≤ a ∧ a < e.base + e.len

/-- Whether two byte ranges share an address. -/
def Extent.meets (e f : Extent) : Bool :=
  decide (0 < e.len ∧ 0 < f.len ∧ e.base < f.base + f.len ∧ f.base < e.base + e.len)

/-! ## The pixel order of a command (20_memory.md R105): y outer, x inner -/

/-- Gives `f` each texel of `d` in row-major order. -/
def overTex {α : Type} (d : Tex) (f : Nat → Nat → α → α) (m : α) : α :=
  loop d.h (fun y m => loop d.w (fun x m => f x y m) m) m

/-- Writes `f x y` of the memory as it then is to each texel of `d` in row-major order; where `f`
answers none, the texel is left. -/
def paintWhere (d : Tex) (f : Nat → Nat → Memory → Option Pixel) (m : Memory) : Memory :=
  overTex d (fun x y m =>
    match f x y m with
    | some p => texWrite m d x y p
    | none => m) m

/-- Writes `f x y` of the memory as it then is to each texel of `d`, row-major. -/
def paint (d : Tex) (f : Nat → Nat → Memory → Pixel) (m : Memory) : Memory :=
  paintWhere d (fun x y m => some (f x y m)) m

/-- `for i in 0 .. D.n-1: D[i] <- A[i]`, row-major (`a` the size of `d`). -/
def copyTex (d a : Tex) (m : Memory) : Memory := paint d (fun x y m => texRead m a x y) m

end Sys2Proof.Machine
end

