-- ==== Sys2Proof/Machine/Operands.lean ====
section
/-! DEFINITION. The operand forms of a command (30_encoding.md R135), all read from the snapshot taken
at acceptance (10_state.md R56): slots, PARAM registers, pixel pairs, the matrix, list records; and the
pre-flight checks on them, each with the error it raises (60_exceptions.md R401, R403). -/

namespace Sys2Proof.Machine

/-! ## Slots -/

/-- TD_BASE[n] as the host reads it; bits 2:0 read as zero (10_state.md R55). -/
def tdBaseWord (d : Desc) : Word := place d.base 3

/-- TD_SIZE[n] as the host reads it: SX in 3:0, SY in 11:8, every other bit 0 (10_state.md R55). -/
def tdSizeWord (d : Desc) : Word := place d.sx 0 ||| place d.sy 8

/-- The texture operand of a descriptor (00_scope.md R16, 41_sampler.md R190). -/
def texOf (d : Desc) : Tex := ⟨(tdBaseWord d).toNat, d.sx.toNat, d.sy.toNat⟩

/-- `TD[n]` of the snapshot (00_scope.md R14). -/
def slotTex (k : Snapshot) (n : Slot) : Tex := texOf (k.td[n.toNat]'n.isLt)

/-! ## PARAM -/

/-- PARAM[k] of the snapshot as its 32 bits. -/
def paramWord (k : Snapshot) (i : Nat) : Word := k.param.toArray.getD i 0

/-- `PARAM[k]`, signed (00_scope.md R14). -/
def param (k : Snapshot) (i : Nat) : Int := (paramWord k i).toInt

/-- `u32(PARAM[k])` (00_scope.md R14). -/
def paramU (k : Snapshot) (i : Nat) : Nat := (paramWord k i).toNat

/-- The pixel `{g, r}`, `{a, b}` of two words (30_encoding.md R136, 10_state.md R48). -/
def pixelOfWords (rg ba : Word) : Pixel :=
  ⟨rg.extractLsb' 0 16, rg.extractLsb' 16 16, ba.extractLsb' 0 16, ba.extractLsb' 16 16⟩

/-- The word with `hi` in bits 31:16 and `lo` in bits 15:0 (10_state.md R48). -/
def pairWord (hi lo : U16) : Word := place lo 0 ||| place hi 16

/-- `PIXPAIR(k)` (30_encoding.md R136). -/
def pixPair (k : Snapshot) (i : Nat) : Pixel := pixelOfWords (paramWord k i) (paramWord k (i + 1))

/-- `M[i][j]` = PARAM[16 + 4i + j] (43_filters.md R279). -/
def coef (k : Snapshot) (i j : Nat) : Int := param k (16 + 4 * i + j)

/-! ## Pre-flight checks (60_exceptions.md R404) -/

/-- A check: the error it raises, or none. -/
abbrev Check := Option CmdError

/-- The check that fails with `e` when `bad` holds. -/
def failIf (bad : Bool) (e : CmdError) : Check := if bad then some e else none

/-- The first check that fails (R404: a command reports exactly one error). -/
def firstError : List Check → Option CmdError
  | [] => none
  | some e :: _ => some e
  | none :: cs => firstError cs

/-- An error with a slot number, PARAM index or bit position in ERRINFO[7:0] (R403). -/
def errAt (c : ErrCode) (i : Nat) : CmdError := ⟨c, BitVec.ofNat 32 i⟩

/-- An error in list record `k`: ERRINFO = 0x80000000 | (k << 8) | bit (R403). -/
def errRecord (c : ErrCode) (k bit : Nat) : CmdError := ⟨c, BitVec.ofNat 32 (2 ^ 31 + 2 ^ 8 * k + bit)⟩

/-- `E_BUS` (R406). -/
def busError : CmdError := ⟨.bus, 0⟩

/-- SX and SY are at most `TEX_MAX_LOG2` (41_sampler.md R191). -/
def Tex.sizeOk (t : Tex) : Bool := decide (t.sx ≤ Config.texMaxLog2 ∧ t.sy ≤ Config.texMaxLog2)

/-- The extent ends at or below 2^32 (20_memory.md R96). -/
def Tex.fits (t : Tex) : Bool := decide (t.base + 8 * t.n ≤ 2 ^ 32)

/-- A slot's two checks: E_TEXSIZE, then E_TEXADDR (41_sampler.md R191). -/
def slotCheck (k : Snapshot) (n : Slot) : List Check :=
  [failIf (!(slotTex k n).sizeOk) (errAt .texsize n.toNat),
   failIf (!(slotTex k n).fits) (errAt .texaddr n.toNat)]

/-- The checks of the used slots, in the field order D, A, B, C, E (R404 (2)). -/
def slotChecks (k : Snapshot) : List Slot → List Check
  | [] => []
  | n :: ns => slotCheck k n ++ slotChecks k ns

/-- Two textures are compatible: the same width and height (41_sampler.md R192). -/
def Tex.compatible (t u : Tex) : Bool := t.sx == u.sx && t.sy == u.sy

/-- E_MISMATCH for the slots that must be compatible with `d`, in the order A, B, C, E (R404 (3)). -/
def matchChecks (k : Snapshot) (d : Slot) : List Slot → List Check
  | [] => []
  | n :: ns => failIf (!(slotTex k d).compatible (slotTex k n)) (errAt .mismatch n.toNat)
      :: matchChecks k d ns

/-- A Q16 coefficient in [-127, 127] (43_filters.md R279). -/
def coefOk (v : Int) : Bool := decide (-127 * 65536 ≤ v ∧ v ≤ 127 * 65536)

/-- The checks of PARAM[k] for `n` values of k from `i`: E_COEF (43_filters.md R279). -/
def coefChecks (k : Snapshot) (i : Nat) : Nat → List Check
  | 0 => []
  | n + 1 => failIf (!coefOk (param k i)) (errAt .coef i) :: coefChecks k (i + 1) n

/-- The PARAM checks of NOISE, k = 0, 1, 2, 3 in order (42_generators.md R238). -/
def noiseChecks (k : Snapshot) : List Check :=
  [failIf (decide (param k 0 < 0 ∨ Config.freqMax < param k 0)) (errAt .param 0),
   failIf (decide (param k 1 < 0 ∨ Config.freqMax < param k 1)) (errAt .param 1),
   failIf (decide (param k 2 < 1 ∨ Config.octMax < param k 2)) (errAt .param 2),
   failIf (decide (param k 3 ≤ 0)) (errAt .param 3)]

/-! ## Cell records (42_generators.md R241) -/

/-- The list address `L`: a byte address, read unsigned (log 15). -/
def listAddr (k : Snapshot) : Nat := paramU k 0

/-- The list count `N`. -/
def listCount (k : Snapshot) : Int := param k 1

/-- The PARAM checks of CELLS: the count, then the pointer (42_generators.md R241, R404 (4)). -/
def cellChecks (k : Snapshot) (outer : Bool) : List Check :=
  [failIf (decide (listCount k < (if outer then 2 else 1) ∨ Config.cellsMax < listCount k)) (errAt .count 1),
   failIf (decide (listAddr k % 8 ≠ 0 ∨ 2 ^ 32 < listAddr k + 16 * listCount k)) (errAt .align 0)]

/-- Cell record `i` of the list at `l`. -/
def cellRecord (m : Memory) (l i : Nat) : CellRecord where
  cx := BitVec.ofNat 32 (memRead m (l + 16 * i) 4)
  cy := BitVec.ofNat 32 (memRead m (l + 16 * i + 4) 4)
  color := pixelAt m (l + 16 * i + 8)

/-- `n` cell records from record `i`, in order. -/
def cellRecords (m : Memory) (l i : Nat) : Nat → List CellRecord
  | 0 => []
  | n + 1 => cellRecord m l i :: cellRecords m l (i + 1) n

/-- The byte range of a CELLS list. -/
def cellList (k : Snapshot) : Extent := ⟨listAddr k, 16 * (listCount k).toNat⟩

/-! ## Linear-combine records (44_combiners.md R370, R371) -/

/-- The constant weight CW (R371). -/
def constWeight (k : Snapshot) : Int := param k 2

/-- The PARAM checks of LINEAR.COMBINE: count, constant weight, pointer (R371). -/
def combineChecks (k : Snapshot) : List Check :=
  [failIf (decide (listCount k < 0 ∨ Config.lcMax < listCount k)) (errAt .count 1),
   failIf (!coefOk (constWeight k)) (errAt .coef 2),
   failIf (decide (0 < listCount k ∧ (listAddr k % 4 ≠ 0 ∨ 2 ^ 32 < listAddr k + 24 * listCount k)))
     (errAt .align 0)]

/-- Input record `i` of the list at `l`: six little-endian words. -/
def inputRecord (m : Memory) (l i : Nat) : InputRecord where
  base := BitVec.ofNat 32 (memRead m (l + 24 * i) 4)
  size := BitVec.ofNat 32 (memRead m (l + 24 * i + 4) 4)
  weight := BitVec.ofNat 32 (memRead m (l + 24 * i + 8) 4)
  us := BitVec.ofNat 32 (memRead m (l + 24 * i + 12) 4)
  vs := BitVec.ofNat 32 (memRead m (l + 24 * i + 16) 4)
  last := BitVec.ofNat 32 (memRead m (l + 24 * i + 20) 4)

/-- `n` input records from record `i`, in order. -/
def inputRecords (m : Memory) (l i : Nat) : Nat → List InputRecord
  | 0 => []
  | n + 1 => inputRecord m l i :: inputRecords m l (i + 1) n

/-- The byte range of a LINEAR.COMBINE list. -/
def inputList (k : Snapshot) : Extent := ⟨listAddr k, 24 * (listCount k).toNat⟩

/-- The texture a record describes: BASE, SX in SIZE[3:0], SY in SIZE[11:8] (R370). -/
def recordTex (r : InputRecord) : Tex :=
  ⟨r.base.toNat, (r.size.extractLsb' 0 4).toNat, (r.size.extractLsb' 8 4).toNat⟩

/-- MODE, SIZE[18:16] (R370). -/
def recordMode (r : InputRecord) : Mode :=
  ⟨⟨r.size.getLsbD 16, r.size.getLsbD 17⟩, r.size.getLsbD 18⟩

/-- The bits of SIZE that must be 0: all but 3:0, 11:8 and 18:16 (R370). -/
def recordReserved (r : InputRecord) : Word := r.size &&& 0xFFF8F0F0

/-- The position of a record's lowest offending bit: of SIZE, or 32 plus that of the word at +20
(60_exceptions.md R403, log 17). -/
def recordBadBit (r : InputRecord) : Nat :=
  if recordReserved r ≠ 0 then lowestSet (recordReserved r)
  else 32 + lowestSet r.last

/-- The checks of record `i`, in the order of R371. -/
def recordChecks (i : Nat) (r : InputRecord) : List Check :=
  [failIf (decide (recordReserved r ≠ 0 ∨ r.last ≠ 0)) (errRecord .reserved i (recordBadBit r)),
   failIf (!(recordTex r).sizeOk) (errRecord .texsize i 0),
   failIf (decide (r.base.toNat % 8 ≠ 0)) (errRecord .align i 0),
   failIf (!(recordTex r).fits) (errRecord .texaddr i 0),
   failIf (!coefOk r.weight.toInt) (errRecord .coef i 0)]

/-- The read of list record `i` by the memory port: `E_BUS` if it reports an error (R406 (a)). -/
def listReadCheck (p : PortAnswer) (i : Nat) : Check :=
  match p with
  | .listError k => failIf (decide (k = i)) busError
  | .ok | .bodyError => none

/-- The reads of `n` list records from record `i`. -/
def listReadChecks (p : PortAnswer) (i : Nat) : Nat → List Check
  | 0 => []
  | n + 1 => listReadCheck p i :: listReadChecks p (i + 1) n

/-- Each record is read, then checked, record by record from record `i` (R404 (5), log 23). -/
def inputChecks (p : PortAnswer) (i : Nat) : List InputRecord → List Check
  | [] => []
  | r :: rs => listReadCheck p i :: recordChecks i r ++ inputChecks p (i + 1) rs

end Sys2Proof.Machine
end

