-- ==== Sys2Proof/Machine/Ops.lean ====
section
/-! DEFINITION. The operations the commands share: acceptance, normal completion, taking an error (the
only 'exception' ATE-1 has: 60_exceptions.md R402, R411, R413), E_BUS and abandonment, and the launch
of a command whose accesses reach memory. -/

namespace Sys2Proof.Machine

/-- What a command's meaning answers. -/
abbrev Result := Host.Outcome State Fault Refusal

/-! ## Acceptance and completion -/

/-- The acceptance of command word `w` (10_state.md R46, R56). -/
def accept (s : State) (w : Word) : State :=
  { s with
    cmd := w
    status := statusAccepted s.status
    snap := ⟨w, s.td, s.param⟩
    raced := [] }

/-- Normal completion (60_exceptions.md R400). -/
def finish (s : State) : State := { s with status := statusFinished s.status }

/-- `RES <- p`: RES_RG = {g, r}, RES_BA = {a, b} (10_state.md R48). -/
def setRes (s : State) (p : Pixel) : State := { s with resRg := pairWord p.g p.r, resBa := pairWord p.a p.b }

/-- Taking an error: `raise Error(code, info)` (60_exceptions.md R402; the first error is kept,
10_state.md R45). Nothing is diverted (R411). -/
def raiseError (s : State) (e : CmdError) : State :=
  { s with
    status := statusFailed s.status e.code
    errinfo := if s.status.err then s.errinfo else e.info }

/-- The host's return from an error, a write of `v` to STATUS (60_exceptions.md R413: there is no
other; 10_state.md R44: a 1 to ERR also clears ERRINFO). -/
def writeStatus (s : State) (v : Word) : State :=
  { s with
    status := statusWritten s.status v
    errinfo := if v.getLsbD 2 then 0 else s.errinfo }

/-! ## What a command names -/

/-- The slots a command uses, in the field order D, A, B, C, E (30_encoding.md R130; for BUMP,
41_sampler.md R191). -/
def usedSlots : Instr → List Slot
  | .nop | .pixInit8 | .pixInit32 | .pixLerp | .pixAdd | .pixMulc | .pixOver | .pixScreen => []
  | .smpNearest a _ => [a]
  | .smpBilinear a _ => [a]
  | .smpFiltered a _ => [a]
  | .smpGradient a => [a]
  | .texCopy d a => [d, a]
  | .noise d a _ _ _ => [d, a]
  | .cells d a _ => [d, a]
  | .glowrect d a b => [d, a, b]
  | .colorMatrix d a _ => [d, a]
  | .coordMatrix d a _ => [d, a]
  | .colorRemap d a b c e => [d, a, b, c, e]
  | .coordRemap d a b _ => [d, a, b]
  | .derive d a _ => [d, a]
  | .blur d a _ => [d, a]
  | .ternary d a b c _ => [d, a, b, c]
  | .paste d a b _ _ => [d, a, b]
  | .bump d a b c e _ spec falloff =>
      [d, a, b] ++ (if spec then [c] else []) ++ (if falloff then [e] else [])
  | .linearCombine d => [d]

/-- The destination slot of a command that writes memory. -/
def destSlot : Instr → Option Slot
  | .nop | .pixInit8 | .pixInit32 | .pixLerp | .pixAdd | .pixMulc | .pixOver | .pixScreen
  | .smpNearest .. | .smpBilinear .. | .smpFiltered .. | .smpGradient .. => none
  | .texCopy d _ => some d
  | .noise d _ _ _ _ => some d
  | .cells d _ _ => some d
  | .glowrect d _ _ => some d
  | .colorMatrix d _ _ => some d
  | .coordMatrix d _ _ => some d
  | .colorRemap d _ _ _ _ => some d
  | .coordRemap d _ _ _ => some d
  | .derive d _ _ => some d
  | .blur d _ _ => some d
  | .ternary d _ _ _ _ => some d
  | .paste d _ _ _ _ => some d
  | .bump d _ _ _ _ _ _ _ => some d
  | .linearCombine d => some d

/-- The slots that must be compatible with the destination, in the order A, B, C, E (41_sampler.md
R192, and each command's rule). Every texel of them is read. -/
def compatSlots : Instr → List Slot
  | .texCopy _ a => [a]
  | .glowrect _ a _ => [a]
  | .colorMatrix _ a _ => [a]
  | .colorRemap _ a _ _ _ => [a]
  | .coordRemap _ _ b _ => [b]
  | .derive _ a _ => [a]
  | .blur _ a _ => [a]
  | .ternary _ a b c _ => [a, b, c]
  | .paste _ a _ _ _ => [a]
  | .bump _ a b _ _ _ _ _ => [a, b]
  | .nop | .pixInit8 | .pixInit32 | .pixLerp | .pixAdd | .pixMulc | .pixOver | .pixScreen
  | .smpNearest .. | .smpBilinear .. | .smpFiltered .. | .smpGradient .. | .noise .. | .cells ..
  | .coordMatrix .. | .linearCombine .. => []

/-! ## Pre-flight (60_exceptions.md R404) -/

/-- E_MISMATCH of a command (R404 (3)). -/
def sizeChecks (i : Instr) (k : Snapshot) : List Check :=
  match destSlot i with
  | some d => matchChecks k d (compatSlots i)
  | none => []

/-- The PARAM checks of a command, in the order its rule states (R404 (4)). -/
def paramChecks (i : Instr) (k : Snapshot) : List Check :=
  match i with
  | .pixLerp => [failIf (decide (param k 0 < 0 ∨ 65536 < param k 0)) (errAt .param 0)]
  | .noise .. => noiseChecks k
  | .cells _ _ outer => cellChecks k outer
  | .colorMatrix .. => coefChecks k 16 16
  | .coordMatrix .. => coefChecks k 16 16
  | .blur .. => [failIf (decide (Config.blurOrderMax < param k 2)) (errAt .param 2)]
  | .linearCombine _ => combineChecks k
  | .nop | .smpNearest .. | .smpBilinear .. | .smpFiltered .. | .smpGradient .. | .pixInit8 | .pixInit32
  | .pixAdd | .pixMulc | .pixOver | .pixScreen | .texCopy .. | .glowrect .. | .colorRemap ..
  | .coordRemap .. | .derive .. | .ternary .. | .paste .. | .bump .. => []

/-- The checks that read no memory: slots, sizes, PARAM (R404 (2) to (4)). -/
def registerChecks (i : Instr) (k : Snapshot) : List Check :=
  slotChecks k (usedSlots i) ++ sizeChecks i k ++ paramChecks i k

/-- The input records LINEAR.COMBINE reads. -/
def inputListRecords (k : Snapshot) (m : Memory) : List InputRecord :=
  inputRecords m (listAddr k) 0 (listCount k).toNat

/-- The list read of a command under the port's answer `p`, and the checks on its records (R404 (5)). -/
def listChecks (i : Instr) (k : Snapshot) (m : Memory) (p : PortAnswer) : List Check :=
  match i with
  | .cells .. => listReadChecks p 0 (listCount k).toNat
  | .linearCombine _ => inputChecks p 0 (inputListRecords k m)
  | .nop | .smpNearest .. | .smpBilinear .. | .smpFiltered .. | .smpGradient .. | .pixInit8 | .pixInit32
  | .pixLerp | .pixAdd | .pixMulc | .pixOver | .pixScreen | .texCopy .. | .noise .. | .glowrect ..
  | .colorMatrix .. | .coordMatrix .. | .colorRemap .. | .coordRemap .. | .derive .. | .blur ..
  | .ternary .. | .paste .. | .bump .. => []

/-! ## The byte ranges a command names -/

/-- The extents of the slots' textures. -/
def slotExtents (k : Snapshot) : List Slot → List Extent
  | [] => []
  | n :: ns => (slotTex k n).extent :: slotExtents k ns

/-- The extents of the records' textures. -/
def recordExtents : List InputRecord → List Extent
  | [] => []
  | r :: rs => (recordTex r).extent :: recordExtents rs

/-- The byte ranges of the list a command reads, and of the textures it describes
(20_memory.md R91, R111). -/
def listExtents (k : Snapshot) (m : Memory) : Instr → List Extent
  | .cells _ _ _ => [cellList k]
  | .linearCombine _ => inputList k :: recordExtents (inputListRecords k m)
  | .nop | .pixInit8 | .pixInit32 | .pixLerp | .pixAdd | .pixMulc | .pixOver | .pixScreen
  | .smpNearest .. | .smpBilinear .. | .smpFiltered .. | .smpGradient .. | .texCopy .. | .noise ..
  | .glowrect .. | .colorMatrix .. | .coordMatrix .. | .colorRemap .. | .coordRemap .. | .derive ..
  | .blur .. | .ternary .. | .paste .. | .bump .. => []

/-- The byte ranges of every texture and list a command names: what a window with side effects is judged
by (20_memory.md R99). -/
def footprint (k : Snapshot) (m : Memory) (i : Instr) : List Extent :=
  slotExtents k (usedSlots i) ++ listExtents k m i

/-- The windows of addresses with side effects: the platform's, and the register block (20_memory.md
R99, log 13). -/
def sideEffectWindows (c : Config) : List Extent := ⟨4096 * c.regPage, 4096⟩ :: c.windows

/-- Whether some range of the list meets a window with side effects. -/
def reachesWindow (c : Config) (es : List Extent) : Bool :=
  es.any fun e => (sideEffectWindows c).any fun f => e.meets f

/-! ## Free values -/

/-- The pixels of `d` become free values: the extent 'holds any value' (60_exceptions.md R406,
70_reset_and_hazards.md R453; log 9, log 10). -/
def spoil (s : State) (d : Tex) : State :=
  { s with
    mem := paint d (fun x y _ => Config.freePixel s.freeIx (d.addr x y)) s.mem
    freeIx := s.freeIx + 1 }

/-- The scratch storage after a command that fills it: undefined, a free value (10_state.md R61,
log 4). -/
def releaseScratch (s : State) : State :=
  { s with scratch := Config.freeScratch s.freeIx, freeIx := s.freeIx + 1 }

/-- The bytes at the addresses `as` take free values: 'any value' (20_memory.md R108, log 12). -/
def openBytes (ix : Nat) : List Nat → Memory → Memory
  | [], m => m
  | a :: as, m => openBytes ix as (m.write a (Config.freeByte ix a))

/-- The end of a command whose bytes a host has raced for: the bytes written take any value
(20_memory.md R108, log 12). -/
def closeRace (s : State) : State :=
  if s.raced = [] then s
  else { s with mem := openBytes s.freeIx s.raced s.mem, raced := [], freeIx := s.freeIx + 1 }

/-- RES takes a free value (log 12). -/
def spoilRes (s : State) : State := { setRes s (Config.freePixel s.freeIx 0) with freeIx := s.freeIx + 1 }

/-! ## Running a command -/

/-- Pre-flight: the first check that fails ends the command with its error; else `go`
(00_scope.md R15, 60_exceptions.md R404). -/
def afterChecks (s : State) (cs : List Check) (go : Result) : Result :=
  match firstError cs with
  | some e => .next (raiseError s e)
  | none => go

/-- Refuses a command that reaches a window with side effects (20_memory.md R99); else `go`. -/
def unlessSideEffects (s : State) (es : List Extent) (go : Result) : Result :=
  if reachesWindow s.cfg es then .refused .sideEffects else go

/-- The body of a command that reads texels and writes RES: `E_BUS` leaves RES (60_exceptions.md
R406); else RES <- `p` of memory, and normal completion. -/
def runSample (s : State) (es : List Extent) (p : Memory → Pixel) : Result :=
  unlessSideEffects s es
    (if s.port = .bodyError then .next (raiseError s busError)
     else .next (finish (setRes s (p s.mem))))

/-- The body of a command that writes texture `d`: `E_BUS` leaves any value in its extent
(60_exceptions.md R406 (b)); else memory becomes `body` of it, and normal completion. -/
def runTexture (s : State) (d : Tex) (es : List Extent) (body : Memory → Memory) : Result :=
  unlessSideEffects s es
    (if s.port = .bodyError then .next (raiseError (spoil s d) busError)
     else .next (finish { s with mem := body s.mem }))

/-- A command of pixel arithmetic: no memory, RES <- `p`, normal completion (40_pixel.md part 2). -/
def runPixel (s : State) (p : Pixel) : Result := .next (finish (setRes s p))

/-- What a command answers, its scratch storage released at the end. -/
def releasing : Result → Result
  | .next s => .next (releaseScratch s)
  | .fault f => .fault f
  | .refused r => .refused r

/-! ## Reset (70_reset_and_hazards.md R450 to R453) -/

/-- The destination texture of the running command, if its word decodes to a command that writes one
and the slot passes its checks (else nothing is ever written). -/
def runningDest (s : State) : Option Tex :=
  match decode s.snap.cmd with
  | .command i =>
    match destSlot i with
    | some d => if (slotTex s.snap d).sizeOk && (slotTex s.snap d).fits then some (slotTex s.snap d) else none
    | none => none
  | .error _ => none

/-- The destination of the running command, if it has one, takes free values (R453). -/
def spoilRunning (s : State) : State :=
  match runningDest s with
  | some d => spoil s d
  | none => s

/-- A reset abandons a running command: its destination extent, and the bytes a host has raced for, hold
any value; DONE is not set and no error is recorded (R453, 20_memory.md R108). -/
def abandon (s : State) : State :=
  if s.status.busy then closeRace { spoilRunning s with status := statusStopped s.status } else s

/-- Every register at its reset value; memory, the platform and the model's own fields as they are
(R451). -/
def resetRegisters (s : State) : State :=
  { State.reset with
    cfg := s.cfg
    mem := s.mem
    rst := s.rst
    port := s.port
    inputs := s.inputs
    raced := s.raced
    hostData := s.hostData
    freeIx := s.freeIx }

/-- The soft reset (R452). -/
def softReset (s : State) : State := resetRegisters (abandon s)

/-- The reset input changes to `level` (R450): asserted, it stops the engine; on its release every
register takes its reset value. -/
def setResetPin (s : State) (level : Bool) : State :=
  if level then { abandon s with rst := true }
  else if s.rst then { resetRegisters s with rst := false }
  else s

end Sys2Proof.Machine
end

