-- ==== Sys2Proof/Machine/Pixels.lean ====
section
/-! DEFINITION. The pixel primitives (40_pixel.md part 1). -/

namespace Sys2Proof.Machine

/-- The pixel whose channels are `f` of the channels of `p`. -/
def mapPixel (f : U16 → U16) (p : Pixel) : Pixel := ⟨f p.r, f p.g, f p.b, f p.a⟩

/-- The pixel whose channels are `f` of the channels of `p` and `q`. -/
def zipPixel (f : U16 → U16 → U16) (p q : Pixel) : Pixel := ⟨f p.r q.r, f p.g q.g, f p.b q.b, f p.a q.a⟩

/-- `MulIntens(a, b)` (R161). -/
def mulIntens (a b : U16) : U16 :=
  let x : Nat := a.toNat * b.toNat + 0x8000
  BitVec.ofNat 16 ((x + (x >>> 16)) >>> 16)

/-- `PixMulC(p, q)` (R161). -/
def pixMulC (p q : Pixel) : Pixel := zipPixel mulIntens p q

/-- `Lerp(t, a, b)` (R162), on signed values too (42_generators.md R234). -/
def lerp (t a b : Int) : Int := a + ((t * (b - a)) >>> (16 : Nat))

/-- `PixLerp(t, p, q)` (R162). -/
def pixLerp (t : Int) (p q : Pixel) : Pixel := zipPixel (fun a b => chan (lerp t (ci a) (ci b))) p q

/-- `PixAdd(p, q)` (R163). -/
def pixAdd (p q : Pixel) : Pixel := zipPixel (fun a b => sat (ci a + ci b)) p q

/-- The inverse `65535 - c` of a channel value. -/
def inv (c : U16) : U16 := chan (65535 - ci c)

/-- `PixOver(d, s)`: `s` over `d` (R164). -/
def pixOver (d s : Pixel) : Pixel :=
  zipPixel (fun dc sc => sat (ci (mulIntens (inv s.a) dc) + ci sc)) d s

/-- `PixScreen(d, s)` (R165). -/
def pixScreen (d s : Pixel) : Pixel :=
  zipPixel (fun dc sc => sat (ci dc + ci (mulIntens sc (inv dc)))) d s

/-- `Expand8(v)` (R166). -/
def expand8 (v : BitVec 8) : U16 := BitVec.ofNat 16 (v.toNat * 257)

/-- `PixInit8(r, g, b, a)` (R166). -/
def pixInit8 (r g b a : BitVec 8) : Pixel :=
  ⟨mulIntens (expand8 r) (expand8 a), mulIntens (expand8 g) (expand8 a),
   mulIntens (expand8 b) (expand8 a), expand8 a⟩

/-- `PixInit32(w)`, `w` = 0xAARRGGBB (R166). -/
def pixInit32 (w : Word) : Pixel :=
  pixInit8 (w.extractLsb' 16 8) (w.extractLsb' 8 8) (w.extractLsb' 0 8) (w.extractLsb' 24 8)

end Sys2Proof.Machine
end

