-- ==== Sys2Proof/Machine/Sampler.lean ====
section
/-! DEFINITION. The sampling functions, the SMP commands and TEX.COPY (41_sampler.md). -/

namespace Sys2Proof.Machine

/-- `AxisAddr(c, m, k)` (R193): the clamp of the axis, then the residue modulo 2^24. -/
def axisAddr (c : Int) (m : Nat) (k : Bool) : Nat :=
  ((if k then clamp c m (2 ^ 24 - m) else c) % 2 ^ 24).toNat

/-- The column, or row, of the texel a coordinate lies in (R194). -/
def nearestX (t : Tex) (x : Int) (wm : Wrap) : Nat := axisAddr x t.minx wm.clampU >>> (24 - t.sx)
def nearestY (t : Tex) (y : Int) (wm : Wrap) : Nat := axisAddr y t.miny wm.clampV >>> (24 - t.sy)

/-- `SampleNearest(T, x, y, wm)` (R194). -/
def sampleNearest (m : Memory) (t : Tex) (x y : Int) (wm : Wrap) : Pixel :=
  texRead m t (nearestX t x wm) (nearestY t y wm)

/-- The wrapped coordinate less the half-texel bias, `& 0xFFFFFF` (R195). -/
def biased (c : Int) (m : Nat) (k : Bool) : Nat := (((axisAddr c m k : Int) - m) % 2 ^ 24).toNat

/-- The 16 bits of a coordinate just below the texel index (R195, R197; 90_conflicts.md C2). -/
def fraction (x sh : Nat) : Nat := ((x <<< (sh + 8)) % 2 ^ 32) >>> 16

/-- `x0` and `y0` (R195). -/
def lowerX (t : Tex) (x : Int) (wm : Wrap) : Nat := biased x t.minx wm.clampU >>> (24 - t.sx)
def lowerY (t : Tex) (y : Int) (wm : Wrap) : Nat := biased y t.miny wm.clampV >>> (24 - t.sy)

/-- `x1` and `y1` (R195). The masks by size - 1 are residues, the size being a power of two (R190). -/
def upperX (t : Tex) (x : Int) (wm : Wrap) : Nat := (lowerX t x wm + 1) % t.w
def upperY (t : Tex) (y : Int) (wm : Wrap) : Nat := (lowerY t y wm + 1) % t.h

/-- `SampleBilinear(T, x, y, wm)` (R195). -/
def sampleBilinear (m : Memory) (t : Tex) (x y : Int) (wm : Wrap) : Pixel :=
  let x0 := lowerX t x wm
  let x1 := upperX t x wm
  let y0 := lowerY t y wm
  let y1 := upperY t y wm
  let fx := fraction (biased x t.minx wm.clampU) t.sx
  let fy := fraction (biased y t.miny wm.clampV) t.sy
  let t0 := pixLerp fx (texRead m t x0 y0) (texRead m t x1 y0)
  let t1 := pixLerp fx (texRead m t x0 y1) (texRead m t x1 y1)
  pixLerp fy t0 t1

/-- `SampleFiltered(T, x, y, m)` (R196). -/
def sampleFiltered (m : Memory) (t : Tex) (x y : Int) (mode : Mode) : Pixel :=
  if mode.bilinear then sampleBilinear m t x y mode.wrap else sampleNearest m t x y mode.wrap

/-- The inward nudge of a gradient coordinate in 0..2^24 (R197). -/
def gradInset (g : GradInset) (sx x : Nat) : Nat :=
  match g with
  | .ulp => if x = 2 ^ 24 then 2 ^ 24 - 1 else x
  | .scale => x - (x >>> sx)

/-- The coordinate clamped to 0..2^24 and nudged inward (R197). -/
def gradCoord (g : GradInset) (t : Tex) (x : Int) : Nat := gradInset g t.sx (clamp x 0 (2 ^ 24)).toNat

/-- `x0` and `x1`: the upper neighbour is clamped (R197; 90_conflicts.md C5). -/
def gradLower (g : GradInset) (t : Tex) (x : Int) : Nat := gradCoord g t x >>> (24 - t.sx)
def gradUpper (g : GradInset) (t : Tex) (x : Int) : Nat := min (gradLower g t x + 1) (t.w - 1)

/-- `SampleGradient(T, x)`: row 0 only (R197). -/
def sampleGradient (g : GradInset) (m : Memory) (t : Tex) (x : Int) : Pixel :=
  pixLerp (fraction (gradCoord g t x) t.sx) (texRead m t (gradLower g t x) 0) (texRead m t (gradUpper g t x) 0)

/-! ## The texels a sample reads (20_memory.md R99, R108) -/

/-- A texel of a texture, its column and its row. -/
abbrev Texel := Nat × Nat

/-- The texel SampleNearest reads (R194). -/
def nearestTexels (t : Tex) (x y : Int) (wm : Wrap) : List Texel := [(nearestX t x wm, nearestY t y wm)]

/-- The four texels SampleBilinear reads (R195). -/
def bilinearTexels (t : Tex) (x y : Int) (wm : Wrap) : List Texel :=
  [(lowerX t x wm, lowerY t y wm), (upperX t x wm, lowerY t y wm),
   (lowerX t x wm, upperY t y wm), (upperX t x wm, upperY t y wm)]

/-- The texels SampleFiltered reads (R196). -/
def filteredTexels (t : Tex) (x y : Int) (mode : Mode) : List Texel :=
  if mode.bilinear then bilinearTexels t x y mode.wrap else nearestTexels t x y mode.wrap

/-- The two texels SampleGradient reads (R197). -/
def gradientTexels (g : GradInset) (t : Tex) (x : Int) : List Texel := [(gradLower g t x, 0), (gradUpper g t x, 0)]

/-! ## Commands -/

/-- SMP.NEAREST (R200). -/
def execSmpNearest (a : Slot) (wm : Wrap) (s : State) : Result :=
  afterChecks s (registerChecks (.smpNearest a wm) s.snap)
    (runSample s (slotExtents s.snap [a])
      fun m => sampleNearest m (slotTex s.snap a) (param s.snap 0) (param s.snap 1) wm)

/-- SMP.BILINEAR (R201). -/
def execSmpBilinear (a : Slot) (wm : Wrap) (s : State) : Result :=
  afterChecks s (registerChecks (.smpBilinear a wm) s.snap)
    (runSample s (slotExtents s.snap [a])
      fun m => sampleBilinear m (slotTex s.snap a) (param s.snap 0) (param s.snap 1) wm)

/-- SMP.FILTERED (R202). -/
def execSmpFiltered (a : Slot) (mode : Mode) (s : State) : Result :=
  afterChecks s (registerChecks (.smpFiltered a mode) s.snap)
    (runSample s (slotExtents s.snap [a])
      fun m => sampleFiltered m (slotTex s.snap a) (param s.snap 0) (param s.snap 1) mode)

/-- SMP.GRADIENT (R203). -/
def execSmpGradient (a : Slot) (s : State) : Result :=
  afterChecks s (registerChecks (.smpGradient a) s.snap)
    (runSample s (slotExtents s.snap [a])
      fun m => sampleGradient s.cfg.gradInset m (slotTex s.snap a) (param s.snap 0))

/-- TEX.COPY (R204). -/
def execTexCopy (d a : Slot) (s : State) : Result :=
  afterChecks s (registerChecks (.texCopy d a) s.snap)
    (runTexture s (slotTex s.snap d) (slotExtents s.snap [d, a])
      (copyTex (slotTex s.snap d) (slotTex s.snap a)))

end Sys2Proof.Machine
end

