-- ==== Sys2Proof/Machine/Affine.lean ====
section
/-! DEFINITION. The parallelogram machinery of GLOWRECT and PASTE (42_generators.md R248, R249), and
GLOWRECT (R250 to R252). -/

namespace Sys2Proof.Machine

/-- ORGX, ORGY, UX, UY, VX, VY of PARAM[0..5] (R248). -/
def orgX (k : Snapshot) : Int := param k 0
def orgY (k : Snapshot) : Int := param k 1
def edgeUX (k : Snapshot) : Int := param k 2
def edgeUY (k : Snapshot) : Int := param k 3
def edgeVX (k : Snapshot) : Int := param k 4
def edgeVY (k : Snapshot) : Int := param k 5

/-- The first pixel of an axis of `2 ^ sx` pixels in a box from `lo` (R248). -/
def boxLow (sx : Nat) (lo : Int) : Int := max 0 (shl lo sx >>> (16 : Nat))

/-- The last pixel of an axis of `2 ^ sx` pixels in a box up to `hi` (R248). -/
def boxHigh (sx : Nat) (hi : Int) : Int := min (2 ^ sx - 1) (ceil16 (shl hi sx))

/-- `DET` (R249). -/
def det (k : Snapshot) : Int := edgeUX k * edgeVY k - edgeUY k * edgeVX k

/-- The skip test: the transform's area is below a quarter pixel (R249). -/
def skips (k : Snapshot) (d : Tex) : Bool := decide (shl (absInt (det k)) (d.sx + d.sy) < 2 ^ 30)

/-- The steps of the walk (R249). -/
def stepUX (k : Snapshot) (d : Tex) : Int := tdiv (shl (edgeVY k) 32) (shl (det k) d.sx)
def stepVX (k : Snapshot) (d : Tex) : Int := tdiv (shl (-edgeUY k) 32) (shl (det k) d.sx)
def stepUY (k : Snapshot) (d : Tex) : Int := tdiv (shl (-edgeVX k) 32) (shl (det k) d.sy)
def stepVY (k : Snapshot) (d : Tex) : Int := tdiv (shl (edgeUX k) 32) (shl (det k) d.sy)

/-- `RMX` and `RMY` at the box corner (R249). -/
def relX (k : Snapshot) (d : Tex) (bx0 : Int) : Int := shl (2 * bx0 + 1) 16 - shl (orgX k) (d.sx + 1)
def relY (k : Snapshot) (d : Tex) (by0 : Int) : Int := shl (2 * by0 + 1) 16 - shl (orgY k) (d.sy + 1)

/-- `u0` and `v0`, the parallelogram coordinate of the centre of the box corner's pixel (R249). -/
def startU (k : Snapshot) (d : Tex) (bx0 by0 : Int) : Int :=
  tdiv (shl (shl (relX k d bx0 * edgeVY k) d.sy - shl (relY k d by0 * edgeVX k) d.sx) 15)
    (shl (det k) (d.sx + d.sy))
def startV (k : Snapshot) (d : Tex) (bx0 by0 : Int) : Int :=
  tdiv (shl (shl (edgeUX k * relY k d by0) d.sx - shl (edgeUY k * relX k d bx0) d.sy) 15)
    (shl (det k) (d.sx + d.sy))

/-- The box's bounds in texture space (R248): `lox`, `hix`, `loy`, `hiy`. -/
structure Bounds where
  lox : Int
  hix : Int
  loy : Int
  hiy : Int
deriving DecidableEq, Repr, Inhabited

/-- Walks the box of `b` over `d`, row-major from its corner, giving `f` each pixel and its
parallelogram coordinate; nothing when the box is empty or the inversion skips (R248, R249). The walk
adds without wrap, so the coordinate `i` right and `j` down of the corner is `start + i * stepX +
j * stepY` (log 16). -/
def overBox {α : Type} (k : Snapshot) (d : Tex) (b : Bounds) (f : Nat → Nat → Int → Int → α → α) (m : α) : α :=
  let bx0 := boxLow d.sx b.lox
  let bx1 := boxHigh d.sx b.hix
  let by0 := boxLow d.sy b.loy
  let by1 := boxHigh d.sy b.hiy
  if bx1 < bx0 ∨ by1 < by0 then m
  else if skips k d then m
  else
    let u0 := startU k d bx0 by0
    let v0 := startV k d bx0 by0
    loop (by1 - by0 + 1).toNat (fun j m =>
      loop (bx1 - bx0 + 1).toNat (fun i m =>
        f (bx0.toNat + i) (by0.toNat + j) (u0 + j * stepUY k d + i * stepUX k d)
          (v0 + j * stepVY k d + i * stepVX k d) m) m) m

/-- Writes what `f` answers to the pixels of the box; where it answers none, the pixel is left. -/
def walkBox (k : Snapshot) (d : Tex) (b : Bounds) (f : Nat → Nat → Int → Int → Memory → Option Pixel)
    (m : Memory) : Memory :=
  overBox k d b (fun x y u v m =>
    match f x y u v m with
    | some p => texWrite m d x y p
    | none => m) m

/-! ## GLOWRECT -/

/-- The glow box (R251). -/
def glowBounds (k : Snapshot) : Bounds where
  lox := orgX k - absInt (edgeUX k) - absInt (edgeVX k)
  hix := orgX k + absInt (edgeUX k) + absInt (edgeVX k)
  loy := orgY k - absInt (edgeUY k) - absInt (edgeVY k)
  hiy := orgY k + absInt (edgeUY k) + absInt (edgeVY k)

/-- `du` or `dv`: the distance on an axis from the inner rectangle of half-extent `r` (R250). -/
def axisGlow (u r : Int) : Int :=
  if r = 65536 then 0 else fdiv (shl (max (absInt u - r) 0) 16) (65536 - r)

/-- `d` at parallelogram coordinate (u, v) (R250). -/
def glowDist (k : Snapshot) (u v : Int) : Int :=
  (axisGlow u (clamp (param k 6) 0 65536) ^ 2 + axisGlow v (clamp (param k 7) 0 65536) ^ 2) >>> (16 : Nat)

/-- Whether a pixel at (u, v) is drawn (R250). -/
def glowInside (k : Snapshot) (u v : Int) : Bool :=
  decide (absInt u < 65536 ∧ absInt v < 65536 ∧ glowDist k u v < 65536)

/-- The body of GLOWRECT: the background copied, then the rectangle composited over it (R252;
90_conflicts.md C4). -/
def glowBody (g : GradInset) (k : Snapshot) (d a b : Tex) (m : Memory) : Memory :=
  walkBox k d (glowBounds k)
    (fun x y u v m =>
      if glowInside k u v then
        some (pixOver (texRead m d x y) (sampleGradient g m b (shl (glowDist k u v) 8)))
      else none)
    (copyTex d a m)

/-- GLOWRECT (R252). -/
def execGlowrect (d a b : Slot) (s : State) : Result :=
  afterChecks s (registerChecks (.glowrect d a b) s.snap)
    (runTexture s (slotTex s.snap d) (slotExtents s.snap [d, a, b])
      (glowBody s.cfg.gradInset s.snap (slotTex s.snap d) (slotTex s.snap a) (slotTex s.snap b)))

end Sys2Proof.Machine
end

