-- ==== Sys2Proof/Machine/Bump.lean ====
section
/-! DEFINITION. BUMP, the lighting combiner (44_combiners.md part 3). -/

namespace Sys2Proof.Machine

/-- A 3-vector of Q16 integers (44_combiners.md R360). -/
structure Vec3 where
  x : Int
  y : Int
  z : Int
deriving DecidableEq, Repr, Inhabited

/-- `Norm3(v)` (R360). -/
def norm3 (v : Vec3) : Vec3 :=
  if v = ⟨0, 0, 0⟩ then ⟨0, 0, 0⟩
  else
    let l : Int := isqrt (shl (v.x ^ 2 + v.y ^ 2 + v.z ^ 2) 32).toNat
    ⟨tdiv (shl v.x 32) l, tdiv (shl v.y 32) l, tdiv (shl v.z 32) l⟩

/-- `Dot(a, b)` (R360). -/
def dot (a b : Vec3) : Int := a.x * b.x + a.y * b.y + a.z * b.z

/-- `Dn` = Norm3(D3), D3 = PARAM[3..5] (R361). -/
def lightAxis (k : Snapshot) : Vec3 := norm3 ⟨param k 3, param k 4, param k 5⟩

/-- `pxc` or `pyc`: a pixel centre in Q16 (R362). -/
def lightCentre (sx x : Nat) : Int := ((2 * x + 1) * 2 ^ (15 - sx) : Nat)

/-- `L` at pixel (x, y) (R362). -/
def lightVector (k : Snapshot) (d : Tex) (directional : Bool) (x y : Nat) : Vec3 :=
  if directional then ⟨-(lightAxis k).x, -(lightAxis k).y, -(lightAxis k).z⟩
  else norm3 ⟨param k 0 - lightCentre d.sx x, param k 1 - lightCentre d.sy y, param k 2⟩

/-- `H`, the half vector of `L` and the viewer (R362). -/
def halfVector (l : Vec3) : Vec3 := norm3 ⟨l.x, l.y, l.z + 65536⟩

/-- `N` from a texel of the normal map (R363). -/
def normalOf (n : Pixel) : Vec3 := ⟨(ci n.r - 32768) * 2, (ci n.g - 32768) * 2, (ci n.b - 32768) * 2⟩

/-- `ndl` and `ndh`: the non-negative part of a dot product in Q16 (R363). -/
def facing (n l : Vec3) : Int := max 0 (dot n l >>> (16 : Nat))

/-- `spot` (R363). -/
def spotOf (axis l : Vec3) : Int := max 0 ((-dot axis l) >>> (16 : Nat))

/-- `ad` before the falloff: ambient plus diffuse (R363). -/
def lighting (k : Snapshot) (ndl : Int) : Pixel :=
  zipPixel (fun am di => sat (ci am + ((ci di * ndl) >>> (16 : Nat)))) (pixPair k 6) (pixPair k 8)

/-- The gradient index of a Q16 term, at most 1.0 (R363). -/
def termIndex (v : Int) : Int := shl (min v 65536) 8

/-- The falloff's gradient index under light `l` (R363). -/
def falloffIndex (k : Snapshot) (l : Vec3) : Int := termIndex (spotOf (lightAxis k) l)

/-- The specular gradient index of normal texel `n` under light `l` (R363). -/
def specularIndex (n : Pixel) (l : Vec3) : Int := termIndex (facing (normalOf n) (halfVector l))

/-- The specular addition, capped at the pixel's own alpha (R363). -/
def addSpecular (o sp : Pixel) : Pixel :=
  ⟨chan (min (ci o.r + ci sp.r) (ci o.a)), chan (min (ci o.g + ci sp.g) (ci o.a)),
   chan (min (ci o.b + ci sp.b) (ci o.a)), o.a⟩

/-- The lit pixel: albedo `p`, normal texel `n`, light `l` (R363). -/
def bumpPixel (g : GradInset) (k : Snapshot) (m : Memory) (c e : Tex) (spec falloff : Bool) (p n : Pixel)
    (l : Vec3) : Pixel :=
  let fp := sampleGradient g m e (falloffIndex k l)
  let ad := lighting k (facing (normalOf n) l)
  let ad := if falloff then pixMulC ad fp else ad
  let o := pixMulC p ad
  if spec then
    let sp := sampleGradient g m c (specularIndex n l)
    let sp := if falloff then pixMulC sp fp else sp
    addSpecular o sp
  else o

/-- BUMP (R363). -/
def execBump (d a b c e : Slot) (directional spec falloff : Bool) (s : State) : Result :=
  afterChecks s (registerChecks (.bump d a b c e directional spec falloff) s.snap)
    (runTexture s (slotTex s.snap d)
      (slotExtents s.snap (usedSlots (.bump d a b c e directional spec falloff)))
      (paint (slotTex s.snap d) fun x y m =>
        bumpPixel s.cfg.gradInset s.snap m (slotTex s.snap c) (slotTex s.snap e) spec falloff
          (texRead m (slotTex s.snap a) x y) (texRead m (slotTex s.snap b) x y)
          (lightVector s.snap (slotTex s.snap d) directional x y)))

end Sys2Proof.Machine
end

