-- ==== Sys2Proof/Machine/Filters.lean ====
section
/-! DEFINITION. The filters (43_filters.md). -/

namespace Sys2Proof.Machine

/-! ## COLOR.MATRIX -/

/-- `v[c]` of pixel `p` (R280): the exact sum, rounded once. -/
def mixChannel (k : Snapshot) (p : Pixel) (c : Nat) : Int :=
  (coef k c 0 * ci p.r + coef k c 1 * ci p.g + coef k c 2 * ci p.b + coef k c 3 * ci p.a + 32768)
    >>> (16 : Nat)

/-- The mixed pixel; with PREMULT, alpha is clamped first and then r, g, b to it (R280). -/
def mixPixel (k : Snapshot) (premult : Bool) (p : Pixel) : Pixel :=
  if premult then
    let a := clamp (mixChannel k p 3) 0 65535
    ⟨chan (clamp (mixChannel k p 0) 0 a), chan (clamp (mixChannel k p 1) 0 a),
     chan (clamp (mixChannel k p 2) 0 a), chan a⟩
  else
    ⟨sat (mixChannel k p 0), sat (mixChannel k p 1), sat (mixChannel k p 2), sat (mixChannel k p 3)⟩

/-- COLOR.MATRIX (R280). -/
def execColorMatrix (d a : Slot) (premult : Bool) (s : State) : Result :=
  afterChecks s (registerChecks (.colorMatrix d a premult) s.snap)
    (runTexture s (slotTex s.snap d) (slotExtents s.snap [d, a])
      (paint (slotTex s.snap d) fun x y m =>
        mixPixel s.snap premult (texRead m (slotTex s.snap a) x y)))

/-! ## COORD.MATRIX -/

/-- The steps of a coordinate along x and along y, from row `i` of the matrix (R285). -/
def coordStepX (k : Snapshot) (d : Tex) (i : Nat) : Int := shl (coef k i 0) (24 - d.sx) >>> (16 : Nat)
def coordStepY (k : Snapshot) (d : Tex) (i : Nat) : Int := shl (coef k i 1) (24 - d.sy) >>> (16 : Nat)

/-- `u0` (row 0) or `v0` (row 1), the image of the centre of pixel (0, 0) (R285). -/
def coordStart (k : Snapshot) (d : Tex) (i : Nat) : Int :=
  wrap32 (shl (coef k i 3) 8 + ((coordStepX k d i + coordStepY k d i) >>> (1 : Nat)))

/-- The coordinate at pixel (x, y): the wrapping accumulators after y steps down and x steps right
(R285; wrapping at every step or once gives the same, log 16). -/
def coordAt (k : Snapshot) (d : Tex) (i x y : Nat) : Int :=
  wrap32 (coordStart k d i + y * coordStepY k d i + x * coordStepX k d i)

/-- COORD.MATRIX (R285). -/
def execCoordMatrix (d a : Slot) (mode : Mode) (s : State) : Result :=
  afterChecks s (registerChecks (.coordMatrix d a mode) s.snap)
    (runTexture s (slotTex s.snap d) (slotExtents s.snap [d, a])
      (paint (slotTex s.snap d) fun x y m =>
        sampleFiltered m (slotTex s.snap a) (coordAt s.snap (slotTex s.snap d) 0 x y)
          (coordAt s.snap (slotTex s.snap d) 1 x y) mode))

/-! ## COLOR.REMAP -/

/-- `GIdx(c)` (R289). -/
def gIdx (c : U16) : Int := shl (ci c) 8 + ((ci c + 128) >>> (8 : Nat))

/-- `Unpre(c, a)` (R289). -/
def unpre (c a : U16) : U16 := chan (fdiv (min (ci c) (ci a) * 65535 + (ci a >>> (1 : Nat))) (ci a))

/-- The channel summed over the three maps and saturated (R290). -/
def sumChannel (f : Pixel → U16) (qr qg qb : Pixel) : U16 := chan (min (ci (f qr) + ci (f qg) + ci (f qb)) 65535)

/-- A color channel `c` of a pixel of alpha `a`, un-premultiplied when alpha is neither 0 nor full (R290). -/
def flatChannel (c a : U16) : U16 := if a = 65535 then c else unpre c a

/-- The three maps' sum at the indices of the un-premultiplied colors of `p`, with its alpha (R290). -/
def mapColor (g : GradInset) (m : Memory) (b c e : Tex) (p : Pixel) : Pixel :=
  let qr := sampleGradient g m b (gIdx (flatChannel p.r p.a))
  let qg := sampleGradient g m c (gIdx (flatChannel p.g p.a))
  let qb := sampleGradient g m e (gIdx (flatChannel p.b p.a))
  ⟨sumChannel Pixel.r qr qg qb, sumChannel Pixel.g qr qg qb, sumChannel Pixel.b qr qg qb, p.a⟩

/-- The remapped pixel: transparent passes through, opaque is mapped, the rest is un-premultiplied
and premultiplied again (R290, 60_exceptions.md R405 (2)). -/
def remapPixel (g : GradInset) (m : Memory) (b c e : Tex) (p : Pixel) : Pixel :=
  if p.a = 0 then p
  else
    let s := mapColor g m b c e p
    if p.a = 65535 then s else ⟨mulIntens s.r p.a, mulIntens s.g p.a, mulIntens s.b p.a, p.a⟩

/-- COLOR.REMAP (R290). -/
def execColorRemap (d a b c e : Slot) (s : State) : Result :=
  afterChecks s (registerChecks (.colorRemap d a b c e) s.snap)
    (runTexture s (slotTex s.snap d) (slotExtents s.snap [d, a, b, c, e])
      (paint (slotTex s.snap d) fun x y m =>
        remapPixel s.cfg.gradInset m (slotTex s.snap b) (slotTex s.snap c) (slotTex s.snap e)
          (texRead m (slotTex s.snap a) x y)))

/-! ## COORD.REMAP -/

/-- The C24 coordinate of the centre of pixel `x` on an axis of `2 ^ sx` pixels (R295, R372). -/
def centre (sx x : Nat) : Int := (x * 2 ^ (24 - sx) + 2 ^ (23 - sx) : Nat)

/-- The displacement of a channel by a strength (R295). -/
def displacement (strength : Int) (c : U16) : Int := (strength * (ci c - 32768)) >>> (7 : Nat)

/-- The coordinate of pixel (x, y) of `d` displaced by the field's pixel `q` (R295). -/
def displacedU (k : Snapshot) (d : Tex) (x : Nat) (q : Pixel) : Int :=
  wrap32 (centre d.sx x + displacement (param k 0) q.r)
def displacedV (k : Snapshot) (d : Tex) (y : Nat) (q : Pixel) : Int :=
  wrap32 (centre d.sy y + displacement (param k 1) q.g)

/-- The resampled pixel (R295). -/
def displacedPixel (k : Snapshot) (m : Memory) (d a : Tex) (mode : Mode) (x y : Nat) (q : Pixel) : Pixel :=
  sampleFiltered m a (displacedU k d x q) (displacedV k d y q) mode

/-- COORD.REMAP (R295): only the field B must be compatible with D. -/
def execCoordRemap (d a b : Slot) (mode : Mode) (s : State) : Result :=
  afterChecks s (registerChecks (.coordRemap d a b mode) s.snap)
    (runTexture s (slotTex s.snap d) (slotExtents s.snap [d, a, b])
      (paint (slotTex s.snap d) fun x y m =>
        displacedPixel s.snap m (slotTex s.snap d) (slotTex s.snap a) mode x y
          (texRead m (slotTex s.snap b) x y)))

/-! ## DERIVE -/

/-- The central difference of the red channel along x, on the torus of size `d` (R300). -/
def diffX (m : Memory) (d a : Tex) (x y : Nat) : Int :=
  ci (texRead m a ((x + 1) % d.w) y).r - ci (texRead m a ((x + d.w - 1) % d.w) y).r

/-- The central difference of the red channel along y (R300). -/
def diffY (m : Memory) (d a : Tex) (x y : Nat) : Int :=
  ci (texRead m a x ((y + 1) % d.h)).r - ci (texRead m a x ((y + d.h - 1) % d.h)).r

/-- The gradient pixel of differences (dx2, dy2) with strength `st` (R300, S[0] = 0). -/
def gradientPixel (dx2 dy2 st : Int) : Pixel :=
  ⟨sat (32768 + fdiv (dx2 * st) 262140), sat (32768 + fdiv (dy2 * st) 262140), 0, 65535⟩

/-- The normal pixel of differences (dx2, dy2) with strength `st` (R300, S[0] = 1). -/
def normalPixel (dx2 dy2 st : Int) : Pixel :=
  let dx := fdiv (dx2 * st) 131070
  let dy := fdiv (dy2 * st) 131070
  let l : Int := isqrt (dx ^ 2 + dy ^ 2 + 2 ^ 32).toNat
  ⟨sat (32768 + fdiv (-dx * 32768) l), sat (32768 + fdiv (-dy * 32768) l), sat (32768 + fdiv (2 ^ 31) l), 65535⟩

/-- DERIVE (R300). -/
def execDerive (d a : Slot) (normals : Bool) (s : State) : Result :=
  afterChecks s (registerChecks (.derive d a normals) s.snap)
    (runTexture s (slotTex s.snap d) (slotExtents s.snap [d, a])
      (paint (slotTex s.snap d) fun x y m =>
        let dx2 := diffX m (slotTex s.snap d) (slotTex s.snap a) x y
        let dy2 := diffY m (slotTex s.snap d) (slotTex s.snap a) x y
        if normals then normalPixel dx2 dy2 (param s.snap 0) else gradientPixel dx2 dy2 (param s.snap 0)))

/-! ## BLUR -/

/-- `spx` or `spy`: a half-kernel width in 26.6 units (R305). -/
def blurSize (v : Int) (sx : Nat) : Nat := (shl (clamp v 0 65536) (5 + sx) >>> (16 : Nat)).toNat

/-- `order` (R305). -/
def blurOrder (k : Snapshot) : Int := param k 2

/-- `idx(i)` on a line of `len` pixels, a power of two (R306). -/
def lineIndex (len : Nat) (clampm : Bool) (i : Int) : Nat :=
  if clampm then (clamp i 0 (len - 1)).toNat else (i % len).toNat

/-- One output channel of the window at `x` (R306). -/
def blurChannel (ch : Pixel → U16) (buf : Array Pixel) (len s : Nat) (clampm : Bool) (x : Nat) : U16 :=
  let frac : Int := ((s - 32) % 64 : Nat)
  let off := (s + 32) >>> 6
  let tap (i : Int) : Int := ci (ch (buf.getD (lineIndex len clampm i) default))
  chan (fdiv (s + sumTo (2 * off - 1) (fun j => 64 * tap (x + j - (off - 1 : Int)))
    + frac * (tap (x - off) + tap (x + off))) (2 * s))

/-- `Blur1D(buf, len, s, clampm)` (R306). -/
def blur1D (buf : Array Pixel) (len s : Nat) (clampm : Bool) : Array Pixel :=
  ((List.range len).map fun x =>
    (⟨blurChannel Pixel.r buf len s clampm x, blurChannel Pixel.g buf len s clampm x,
      blurChannel Pixel.b buf len s clampm x, blurChannel Pixel.a buf len s clampm x⟩ : Pixel)).toArray

/-- Blur1D `order` times, from one line buffer to the other (R307, 10_state.md R61). -/
def blurLine (buf : Array Pixel) (len s : Nat) (clampm : Bool) : Nat → Array Pixel
  | 0 => buf
  | n + 1 => blurLine (blur1D buf len s clampm) len s clampm n

/-- Row `y` of a texture. -/
def rowOf (m : Memory) (t : Tex) (y : Nat) : Array Pixel := ((List.range t.w).map fun x => texRead m t x y).toArray

/-- Column `x` of a texture. -/
def columnOf (m : Memory) (t : Tex) (x : Nat) : Array Pixel := ((List.range t.h).map fun y => texRead m t x y).toArray

/-- Row `y` of `d` <- `buf`. -/
def putRow (d : Tex) (y : Nat) (buf : Array Pixel) (m : Memory) : Memory :=
  loop d.w (fun x m => texWrite m d x y (buf.getD x default)) m

/-- Column `x` of `d` <- `buf`. -/
def putColumn (d : Tex) (x : Nat) (buf : Array Pixel) (m : Memory) : Memory :=
  loop d.h (fun y m => texWrite m d x y (buf.getD y default)) m

/-- The horizontal pass from `src` to `d`: each row is read whole before it is written (R307). -/
def blurRows (d src : Tex) (s order : Nat) (clampm : Bool) (m : Memory) : Memory :=
  loop d.h (fun y m => putRow d y (blurLine (rowOf m src y) d.w s clampm order) m) m

/-- The vertical pass from `src` to `d` (R307). -/
def blurColumns (d src : Tex) (s order : Nat) (clampm : Bool) (m : Memory) : Memory :=
  loop d.w (fun x m => putColumn d x (blurLine (columnOf m src x) d.h s clampm order) m) m

/-- The body of BLUR (R307). -/
def blurBody (k : Snapshot) (d a : Tex) (wm : Wrap) (m : Memory) : Memory :=
  let spx := blurSize (param k 0) d.sx
  let spy := blurSize (param k 1) d.sy
  let order := (blurOrder k).toNat
  if blurOrder k ≤ 0 ∨ (spx ≤ 32 ∧ spy ≤ 32) then copyTex d a m
  else
    let m1 := if 32 < spx then blurRows d a spx order wm.clampU m else m
    let src := if 32 < spx then d else a
    if 32 < spy then blurColumns d src spy order wm.clampV m1 else m1

/-- BLUR (R307). -/
def execBlur (d a : Slot) (wm : Wrap) (s : State) : Result :=
  afterChecks s (registerChecks (.blur d a wm) s.snap)
    (releasing
      (runTexture s (slotTex s.snap d) (slotExtents s.snap [d, a])
        (blurBody s.snap (slotTex s.snap d) (slotTex s.snap a) wm)))

end Sys2Proof.Machine
end

