-- ==== Sys2Proof/Machine/Combiners.lean ====
section
/-! DEFINITION. The combiners TERNARY, PASTE and LINEAR.COMBINE (44_combiners.md parts 1, 2 and 4). -/

namespace Sys2Proof.Machine

/-! ## TERNARY -/

/-- The lerp of two inputs by control `k` (R330, S[0] = 0). -/
def ternaryLerp (k : U16) (p1 p2 : Pixel) : Pixel :=
  zipPixel (fun a b => chan (ci (mulIntens (inv k) a) + ci (mulIntens k b))) p1 p2

/-- The selection by control `k` (R330, S[0] = 1). -/
def ternarySelect (k : U16) (p1 p2 : Pixel) : Pixel := if 32768 ≤ k.toNat then p2 else p1

/-- TERNARY (R330). -/
def execTernary (d a b c : Slot) (select : Bool) (s : State) : Result :=
  afterChecks s (registerChecks (.ternary d a b c select) s.snap)
    (runTexture s (slotTex s.snap d) (slotExtents s.snap [d, a, b, c])
      (paint (slotTex s.snap d) fun x y m =>
        let p1 := texRead m (slotTex s.snap a) x y
        let p2 := texRead m (slotTex s.snap b) x y
        let k := (texRead m (slotTex s.snap c) x y).r
        if select then ternarySelect k p1 p2 else ternaryLerp k p1 p2))

/-! ## PASTE -/

/-- `ta` (R339): the alpha of MULTIPLY, DARKEN and LIGHTEN. -/
def blendAlpha (d s : Pixel) : U16 := sat (ci d.a + ci (mulIntens s.a (inv d.a)))

/-- The pixel with colors `f` of the colors of `d` and `s`, and alpha `al`. -/
def blendColors (f : U16 → U16 → U16) (d s : Pixel) (al : U16) : Pixel := ⟨f d.r s.r, f d.g s.g, f d.b s.b, al⟩

/-- `Blend(op, d, s)` (R339 to R351). -/
def blend (op : Blend) (d s : Pixel) : Pixel :=
  match op with
  | .add => zipPixel (fun x y => sat (ci x + ci y)) d s
  | .sub => zipPixel (fun x y => sat (ci x - ci y)) d s
  | .mulc => zipPixel mulIntens d s
  | .min => zipPixel (fun x y => chan (min (ci x) (ci y))) d s
  | .max => zipPixel (fun x y => chan (max (ci x) (ci y))) d s
  | .setalpha => { d with a := s.r }
  | .prealpha => ⟨mulIntens d.r s.r, mulIntens d.g s.r, mulIntens d.b s.r, s.r⟩
  | .over => pixOver d s
  | .multiply =>
      blendColors (fun x y =>
        sat (ci (mulIntens (inv s.a) x) + ci (mulIntens (inv d.a) y) + ci (mulIntens y x)))
        d s (blendAlpha d s)
  | .screen => pixScreen d s
  | .darken =>
      blendColors (fun x y =>
        sat (ci x + ci y - max (ci (mulIntens y d.a)) (ci (mulIntens x s.a)))) d s (blendAlpha d s)
  | .lighten =>
      blendColors (fun x y =>
        sat (ci x + ci y - min (ci (mulIntens y d.a)) (ci (mulIntens x s.a)))) d s (blendAlpha d s)

/-- The paste box (R335). -/
def pasteBounds (k : Snapshot) : Bounds where
  lox := orgX k + min (edgeUX k) 0 + min (edgeVX k) 0
  hix := orgX k + max (edgeUX k) 0 + max (edgeVX k) 0
  loy := orgY k + min (edgeUY k) 0 + min (edgeVY k) 0
  hiy := orgY k + max (edgeUY k) 0 + max (edgeVY k) 0

/-- Whether a pixel's parallelogram coordinate is in [0, 1) on both axes (R336). -/
def pasteInside (u v : Int) : Bool := decide (0 ≤ u ∧ u < 65536 ∧ 0 ≤ v ∧ v < 65536)

/-- The body of PASTE: the background copied, then the snippet blended over it (R336; 90_conflicts.md
C4). -/
def pasteBody (k : Snapshot) (d a b : Tex) (mode : Mode) (op : Blend) (m : Memory) : Memory :=
  walkBox k d (pasteBounds k)
    (fun x y u v m =>
      if pasteInside u v then
        some (blend op (texRead m d x y) (sampleFiltered m b (shl u 8) (shl v 8) mode))
      else none)
    (copyTex d a m)

/-- PASTE (R336). -/
def execPaste (d a b : Slot) (mode : Mode) (op : Blend) (s : State) : Result :=
  afterChecks s (registerChecks (.paste d a b mode op) s.snap)
    (runTexture s (slotTex s.snap d) (slotExtents s.snap [d, a, b])
      (pasteBody s.snap (slotTex s.snap d) (slotTex s.snap a) (slotTex s.snap b) mode op))

/-! ## LINEAR.COMBINE -/

/-- A record's coordinates at the centre (u, v): the centre plus the record's shifts (R372). -/
def recordU (r : InputRecord) (u : Int) : Int := wrap32 (u + r.us.toInt)
def recordV (r : InputRecord) (v : Int) : Int := wrap32 (v + r.vs.toInt)

/-- The accumulator of channel `ch`, an exact sum, onto `acc`: each record's weight times its sample
(R372). -/
def combineFrom (m : Memory) (u v : Int) (ch : Pixel → U16) : List InputRecord → Int → Int
  | [], acc => acc
  | r :: rs, acc =>
    combineFrom m u v ch rs
      (acc + r.weight.toInt *
        ci (ch (sampleFiltered m (recordTex r) (recordU r u) (recordV r v) (recordMode r))))

/-- A channel of the result: rounded once, half up, and saturated (R372). -/
def combineChannel (m : Memory) (u v : Int) (rs : List InputRecord) (cw : Int) (c : Pixel) (ch : Pixel → U16) :
    U16 :=
  sat ((combineFrom m u v ch rs (cw * ci (ch c)) + 32768) >>> (16 : Nat))

/-- The constant color K (R371). -/
def constColor (k : Snapshot) : Pixel := pixPair k 3

/-- The pixel of the combination at centre (u, v) (R372). -/
def combinePixel (m : Memory) (u v : Int) (rs : List InputRecord) (cw : Int) (c : Pixel) : Pixel :=
  ⟨combineChannel m u v rs cw c Pixel.r, combineChannel m u v rs cw c Pixel.g,
   combineChannel m u v rs cw c Pixel.b, combineChannel m u v rs cw c Pixel.a⟩

/-- The records read into the engine's input buffer (R371, 10_state.md R61). -/
def loadInputs (s : State) : State :=
  { s with scratch := { s.scratch with inputs := inputListRecords s.snap s.mem } }

/-- LINEAR.COMBINE (R372): the checks, the list read and checked record by record, the body. -/
def execLinearCombine (d : Slot) (s : State) : Result :=
  afterChecks s (registerChecks (.linearCombine d) s.snap)
    (unlessSideEffects s [inputList s.snap]
      (afterChecks s (listChecks (.linearCombine d) s.snap s.mem s.port)
        (releasing
          (runTexture (loadInputs s) (slotTex s.snap d)
            (slotExtents s.snap [d] ++ recordExtents (loadInputs s).scratch.inputs)
            (paint (slotTex s.snap d) fun x y m =>
              combinePixel m (centre (slotTex s.snap d).sx x) (centre (slotTex s.snap d).sy y)
                (loadInputs s).scratch.inputs (constWeight s.snap) (constColor s.snap))))))

end Sys2Proof.Machine
end

