-- ==== Sys2Proof/Machine/Control.lean ====
section
/-! DEFINITION. The control command (49_control.md). -/

namespace Sys2Proof.Machine

/-- NOP: completes at once (R395). -/
def execNop (s : State) : Result := .next (finish s)

end Sys2Proof.Machine
end

