-- ==== Sys2Proof/Machine/Generators.lean ====
section
/-! DEFINITION. The generators NOISE and CELLS (42_generators.md parts 1 to 3). -/

namespace Sys2Proof.Machine

/-! ## The permutation table (R230) -/

/-- One right-shifting Galois step of the LFSR. -/
def lfsrStep (taps s : Word) : Word := (s >>> 1) ^^^ (if s.getLsbD 0 then taps else 0)

/-- The keys of indices `i`, `i + 1`, …, `n` of them, each with its index; `s` is the key of `i`. -/
def permKeys (taps s : Word) (i : Nat) : Nat → List (Nat × Nat)
  | 0 => []
  | n + 1 => (s.toNat, i) :: permKeys taps (lfsrStep taps s) (i + 1) n

/-- The entries ordered by bit `b` of the key, equal bits in their order. -/
def splitOnBit (b : Nat) (l : List (Nat × Nat)) : List (Nat × Nat) :=
  l.filter (fun e => !e.1.testBit b) ++ l.filter (fun e => e.1.testBit b)

/-- The entries ordered by the low `b` bits of the key, equal values in their order: a sort by digits,
least significant first. -/
def sortOnBits (l : List (Nat × Nat)) : Nat → List (Nat × Nat)
  | 0 => l
  | b + 1 => splitOnBit b (sortOnBits l b)

/-- PT: the indices 0..4095 ordered by (key, index) (R230; stated as NoiseTableOrdersKeys). -/
def permTable (seed taps : Word) : List (BitVec 12) :=
  (sortOnBits (permKeys taps seed 0 4096) 32).map fun e => BitVec.ofNat 12 e.2

/-- `if PERM_READY = 0: build PT`; PERM_READY <- 1 (R239, 10_state.md R60). -/
def buildPerm (s : State) : State :=
  if s.status.permReady then s
  else
    { s with
      perm := (permTable s.cfg.permSeed s.cfg.permTaps).toArray
      status := statusPermBuilt s.status }

/-! ## NOISE -/

/-- `PT[j]`. -/
def permEntry (pt : Array (BitVec 12)) (j : Nat) : Nat := (pt.getD j 0).toNat

/-- `Hash(i, j, z)` (R232). -/
def latHash (pt : Array (BitVec 12)) (i j z : Nat) : Nat := permEntry pt ((permEntry pt i + j + z) % 4096)

/-- `Lat(i, j, z)` (R232). -/
def lat (pt : Array (BitVec 12)) (i j z : Nat) : Int := ((latHash pt i j z : Int) - 2048) * 32

/-- `Smooth(t)` (R233). -/
def smooth (t : Int) : Int := (t ^ 3 * (10 * 2 ^ 32 - 15 * 2 ^ 16 * t + 6 * t ^ 2)) >>> (64 : Nat)

/-- `Basis(px, py, mx, my, z, band)` (R234; 90_conflicts.md C3). -/
def basis (pt : Array (BitVec 12)) (px py : Word) (mx my z : Nat) (band : Bool) : Int :=
  let pu := px.toNat
  let pv := py.toNat
  let ix := (pu >>> 16) &&& mx &&& 4095
  let iy := (pv >>> 16) &&& my &&& 4095
  if band then
    let ix1 := (ix + 1) &&& mx &&& 4095
    let iy1 := (iy + 1) &&& my &&& 4095
    let u := smooth (pu % 2 ^ 16 : Nat)
    let v := smooth (pv % 2 ^ 16 : Nat)
    let a := lerp u (lat pt ix iy z) (lat pt ix1 iy z)
    let b := lerp u (lat pt ix iy1 z) (lat pt ix1 iy1 z)
    lerp v a b
  else lat pt ix iy z

/-- The first octave's amplitude S0 (R235). -/
def octaveScale (f : Int) (oct : Nat) (normalize : Bool) : Int :=
  if normalize then
    if f = 65536 then fdiv 65536 oct
    else fdiv (65536 * (f - 65536) * 65536 ^ (oct - 1)) (f ^ oct - 65536 ^ oct)
  else if f ≤ 65536 then 65536
  else fdiv (2 ^ 32) f

/-- The lattice coordinate of pixel `x` on an axis of `2 ^ sx` pixels and `2 ^ fx` cells (R236). -/
def latticeStart (sx fx x : Nat) : Word :=
  BitVec.ofNat 32 ((x <<< (16 - sx + fx)) + ((1 <<< (16 - sx + fx)) >>> 1))

/-- `oct` octaves from position (px, py), masks (mx, my), amplitude `s`, accumulated onto `acc`
(R236, R237, R239). -/
def octaves (pt : Array (BitVec 12)) (z : Nat) (f : Int) (abs band : Bool) :
    Nat → Word → Word → Nat → Nat → Int → Int → Int
  | 0, _, _, _, _, _, acc => acc
  | n + 1, px, py, mx, my, s, acc =>
    let nv := basis pt px py mx my z band
    let nv := if abs then absInt nv else nv
    octaves pt z f abs band n (px + px) (py + py) (2 * mx + 1) (2 * my + 1)
      ((s * f + 32768) >>> (16 : Nat)) (acc + nv * s)

/-- The gradient index of an accumulated value (R237). -/
def noiseIndex (abs : Bool) (acc : Int) : Int :=
  if abs then acc >>> (8 : Nat) else 2 ^ 23 + (acc >>> (9 : Nat))

/-- FREQX, FREQY, the octave count, FADEOFF and the seed (R238). -/
def freqX (k : Snapshot) : Nat := (param k 0).toNat
def freqY (k : Snapshot) : Nat := (param k 1).toNat
def octCount (k : Snapshot) : Nat := (param k 2).toNat
def fadeoff (k : Snapshot) : Int := param k 3
def noiseSeed (k : Snapshot) : Nat := paramU k 4 % 4096

/-- The gradient index of pixel (x, y) of `d` (R239). -/
def noiseAt (k : Snapshot) (pt : Array (BitVec 12)) (d : Tex) (abs normalize band : Bool) (x y : Nat) : Int :=
  noiseIndex abs
    (octaves pt (noiseSeed k) (fadeoff k) abs band (octCount k)
      (latticeStart d.sx (freqX k) x) (latticeStart d.sy (freqY k) y)
      (2 ^ freqX k - 1) (2 ^ freqY k - 1)
      (octaveScale (fadeoff k) (octCount k) normalize) 0)

/-- NOISE (R239). The table is built after pre-flight and before the body (10_state.md R60, log 21). -/
def execNoise (d a : Slot) (abs normalize band : Bool) (s : State) : Result :=
  afterChecks s (registerChecks (.noise d a abs normalize band) s.snap)
    (runTexture (buildPerm s) (slotTex s.snap d) (slotExtents s.snap [d, a])
      (paint (slotTex s.snap d) fun x y m =>
        sampleGradient s.cfg.gradInset m (slotTex s.snap a)
          (noiseAt s.snap (buildPerm s).perm (slotTex s.snap d) abs normalize band x y)))

/-! ## CELLS -/

/-- The C14 coordinate of the centre of pixel `x` on an axis of `2 ^ sx` pixels (R240). -/
def cellCoord (sx x : Nat) : Nat := x * 2 ^ (14 - sx) + (2 ^ (14 - sx)) >>> 1

/-- `TD1(a, b)` (R242). -/
def torusDist (a b : Nat) : Nat :=
  let d := (((a : Int) - b) % 0x4000).toNat
  min d (0x4000 - d)

/-- `Dist2(xc, yc, k)` (R242); bits 31:14 of a record's coordinates are ignored (R241). -/
def dist2 (xc yc : Nat) (c : CellRecord) : Nat :=
  torusDist xc (c.cx.toNat % 0x4000) ^ 2 + torusDist yc (c.cy.toNat % 0x4000) ^ 2

/-- The nearest centres of the records `cs`, given the nearest so far: its distance, its record, and
the least distance of the others, if there is one (R243; the lowest index wins a tie). -/
def nearestFrom (xc yc best : Nat) (win : CellRecord) (second : Option Nat) :
    List CellRecord → Nat × CellRecord × Option Nat
  | [] => (best, win, second)
  | c :: cs =>
    let q := dist2 xc yc c
    if q < best then nearestFrom xc yc q c (some best) cs
    else nearestFrom xc yc best win (some (match second with | some t => min t q | none => q)) cs

/-- Inner mode's gradient index (R244). -/
def innerIndex (d0 : Nat) (amp : Int) : Int := clamp (((d0 : Int) * amp) >>> (16 : Nat)) 0 (2 ^ 24)

/-- Outer mode's gradient index (R245). -/
def outerIndex (d0 d1 : Nat) : Int := if d0 + d1 = 0 then 0 else fdiv (shl d0 24) (d0 + d1)

/-- The distance in C24 units of a squared C14 distance (R243). -/
def cellDist (q : Nat) : Nat := isqrt (q <<< 20)

/-- The gradient index of the pixel centred at (xc, yc), and the winning centre's color (R243 to R245).
The list has a record, by E_COUNT; in outer mode it has a second. -/
def cellAt (amp : Int) (outer : Bool) (xc yc : Nat) : List CellRecord → Int × Pixel
  | [] => (0, default)
  | c :: cs =>
    let (best, win, second) := nearestFrom xc yc (dist2 xc yc c) c none cs
    (if outer then outerIndex (cellDist best) (cellDist (second.getD best)) else innerIndex (cellDist best) amp,
     win.color)

/-- The color of a pixel from its index and its winning centre's color (R244 to R246). -/
def cellColor (g : GradInset) (m : Memory) (a : Tex) (outer : Bool) (c : Int × Pixel) : Pixel :=
  if outer then sampleGradient g m a c.1 else pixMulC (sampleGradient g m a c.1) c.2

/-- `cellAt` of pixel (x, y) of `d` (R246). -/
def cellOf (k : Snapshot) (d : Tex) (outer : Bool) (cs : List CellRecord) (x y : Nat) : Int × Pixel :=
  cellAt (param k 2) outer (cellCoord d.sx x) (cellCoord d.sy y) cs

/-- The records read into the engine's cell buffer (R241, 10_state.md R61). -/
def loadCells (s : State) : State :=
  { s with scratch := { s.scratch with
      cells := cellRecords s.mem (listAddr s.snap) 0 (listCount s.snap).toNat } }

/-- CELLS (R246): the checks, the list read, the body. -/
def execCells (d a : Slot) (outer : Bool) (s : State) : Result :=
  afterChecks s (registerChecks (.cells d a outer) s.snap)
    (unlessSideEffects s [cellList s.snap]
      (afterChecks s (listChecks (.cells d a outer) s.snap s.mem s.port)
        (releasing
          (runTexture (loadCells s) (slotTex s.snap d) (slotExtents s.snap [d, a])
            (paint (slotTex s.snap d) fun x y m =>
              cellColor s.cfg.gradInset m (slotTex s.snap a) outer
                (cellOf s.snap (slotTex s.snap d) outer (loadCells s).scratch.cells x y))))))

end Sys2Proof.Machine
end

