-- ==== Sys2Proof/Machine/Pix.lean ====
section
/-! DEFINITION. The seven PIX commands (40_pixel.md part 2). -/

namespace Sys2Proof.Machine

/-- PIX.INIT8 (R170): PARAM[0] = {a8, b8, g8, r8}. -/
def execPixInit8 (s : State) : Result :=
  let w := paramWord s.snap 0
  runPixel s (pixInit8 (w.extractLsb' 0 8) (w.extractLsb' 8 8) (w.extractLsb' 16 8) (w.extractLsb' 24 8))

/-- PIX.INIT32 (R171): PARAM[0] = 0xAARRGGBB. -/
def execPixInit32 (s : State) : Result := runPixel s (pixInit32 (paramWord s.snap 0))

/-- PIX.LERP (R172): t = PARAM[0], E_PARAM unless 0..65536. -/
def execPixLerp (s : State) : Result :=
  afterChecks s (registerChecks .pixLerp s.snap)
    (runPixel s (pixLerp (param s.snap 0) (pixPair s.snap 1) (pixPair s.snap 3)))

/-- PIX.ADD (R173). -/
def execPixAdd (s : State) : Result := runPixel s (pixAdd (pixPair s.snap 1) (pixPair s.snap 3))

/-- PIX.MULC (R174). -/
def execPixMulc (s : State) : Result := runPixel s (pixMulC (pixPair s.snap 1) (pixPair s.snap 3))

/-- PIX.OVER (R175): PIXPAIR(3) over PIXPAIR(1). -/
def execPixOver (s : State) : Result := runPixel s (pixOver (pixPair s.snap 1) (pixPair s.snap 3))

/-- PIX.SCREEN (R176): PIXPAIR(3) screened onto PIXPAIR(1). -/
def execPixScreen (s : State) : Result := runPixel s (pixScreen (pixPair s.snap 1) (pixPair s.snap 3))

end Sys2Proof.Machine
end

