-- ==== Sys2Proof/Machine/Dispatch.lean ====
section
/-! DEFINITION. The meaning of a command: one arm per constructor of `Instr`. -/

namespace Sys2Proof.Machine

/-- Executes an accepted command to its end, normal or with an error (00_scope.md R15). -/
def exec (i : Instr) (s : State) : Host.Outcome State Fault Refusal :=
  match i with
  | .nop => Sys2Proof.Machine.execNop s
  | .smpNearest a wm => Sys2Proof.Machine.execSmpNearest a wm s
  | .smpBilinear a wm => Sys2Proof.Machine.execSmpBilinear a wm s
  | .smpFiltered a m => Sys2Proof.Machine.execSmpFiltered a m s
  | .smpGradient a => Sys2Proof.Machine.execSmpGradient a s
  | .pixInit8 => Sys2Proof.Machine.execPixInit8 s
  | .pixInit32 => Sys2Proof.Machine.execPixInit32 s
  | .pixLerp => Sys2Proof.Machine.execPixLerp s
  | .pixAdd => Sys2Proof.Machine.execPixAdd s
  | .pixMulc => Sys2Proof.Machine.execPixMulc s
  | .pixOver => Sys2Proof.Machine.execPixOver s
  | .pixScreen => Sys2Proof.Machine.execPixScreen s
  | .texCopy d a => Sys2Proof.Machine.execTexCopy d a s
  | .noise d a abs normalize bandlimit => Sys2Proof.Machine.execNoise d a abs normalize bandlimit s
  | .cells d a outer => Sys2Proof.Machine.execCells d a outer s
  | .glowrect d a b => Sys2Proof.Machine.execGlowrect d a b s
  | .colorMatrix d a premult => Sys2Proof.Machine.execColorMatrix d a premult s
  | .coordMatrix d a m => Sys2Proof.Machine.execCoordMatrix d a m s
  | .colorRemap d a b c e => Sys2Proof.Machine.execColorRemap d a b c e s
  | .coordRemap d a b m => Sys2Proof.Machine.execCoordRemap d a b m s
  | .derive d a normals => Sys2Proof.Machine.execDerive d a normals s
  | .blur d a wm => Sys2Proof.Machine.execBlur d a wm s
  | .ternary d a b c select => Sys2Proof.Machine.execTernary d a b c select s
  | .paste d a b m op => Sys2Proof.Machine.execPaste d a b m op s
  | .bump d a b c e directional spec falloff => Sys2Proof.Machine.execBump d a b c e directional spec falloff s
  | .linearCombine d => Sys2Proof.Machine.execLinearCombine d s

end Sys2Proof.Machine
end

