-- ==== Sys2Proof/Machine/Race.lean ====
section
/-! DEFINITION. Races (20_memory.md R108, 70_reset_and_hazards.md R462): which bytes a command reads or
writes, as its pseudocode reads and writes them, and what a host access to one of them between
acceptance and completion leaves open (log 12). -/

namespace Sys2Proof.Machine

/-! ## The texels a command samples: those that its destination's and its compatible slots do not hold -/

/-- Whether access `e` meets one of the texels `l` of `t`. -/
def onTexels (e : Extent) (t : Tex) (l : List Texel) : Bool := l.any fun p => e.meets ⟨t.addr p.1 p.2, 8⟩

/-- Whether the walk of texture `d` samples a byte of `e`, when pixel (x, y) samples one as `hit` says. -/
def anyTexel (d : Tex) (hit : Nat → Nat → Bool) : Bool := overTex d (fun x y h => h || hit x y) false

/-- The same for a command whose samples depend on the memory as it then is: `f` writes each pixel. -/
def anyTexelPainting (d : Tex) (f : Nat → Nat → Memory → Pixel) (hit : Nat → Nat → Memory → Bool) (m : Memory) :
    Bool :=
  (overTex d (fun x y (c : Memory × Bool) => (texWrite c.1 d x y (f x y c.1), c.2 || hit x y c.1)) (m, false)).2

/-- The same for the drawn pixels of a box. -/
def anyDrawn (k : Snapshot) (d : Tex) (b : Bounds) (hit : Int → Int → Bool) : Bool :=
  overBox k d b (fun _ _ u v h => h || hit u v) false

/-- COLOR.REMAP samples its three maps for a pixel that is not transparent (43_filters.md R290). -/
def remapHit (g : GradInset) (e : Extent) (b c f : Tex) (p : Pixel) : Bool :=
  p.a ≠ 0 &&
    (onTexels e b (gradientTexels g b (gIdx (flatChannel p.r p.a)))
      || onTexels e c (gradientTexels g c (gIdx (flatChannel p.g p.a)))
      || onTexels e f (gradientTexels g f (gIdx (flatChannel p.b p.a))))

/-- BUMP samples its specular and its falloff gradient (44_combiners.md R363). -/
def bumpHit (g : GradInset) (k : Snapshot) (e : Extent) (c f : Tex) (spec falloff : Bool) (n : Pixel) (l : Vec3) :
    Bool :=
  (falloff && onTexels e f (gradientTexels g f (falloffIndex k l)))
    || (spec && onTexels e c (gradientTexels g c (specularIndex n l)))

/-- LINEAR.COMBINE samples every record's texture (44_combiners.md R372). -/
def combineHit (e : Extent) (rs : List InputRecord) (u v : Int) : Bool :=
  rs.any fun r => onTexels e (recordTex r) (filteredTexels (recordTex r) (recordU r u) (recordV r v) (recordMode r))

/-- Whether the body of `i` samples a byte of `e` of a texture other than its destination and those that
must be compatible with it. -/
def samples (s : State) (e : Extent) (i : Instr) : Bool :=
  let k := s.snap
  let g := s.cfg.gradInset
  match i with
  | .smpNearest a wm => onTexels e (slotTex k a) (nearestTexels (slotTex k a) (param k 0) (param k 1) wm)
  | .smpBilinear a wm => onTexels e (slotTex k a) (bilinearTexels (slotTex k a) (param k 0) (param k 1) wm)
  | .smpFiltered a mode => onTexels e (slotTex k a) (filteredTexels (slotTex k a) (param k 0) (param k 1) mode)
  | .smpGradient a => onTexels e (slotTex k a) (gradientTexels g (slotTex k a) (param k 0))
  | .noise d a abs normalize band =>
      anyTexel (slotTex k d) fun x y =>
        onTexels e (slotTex k a)
          (gradientTexels g (slotTex k a) (noiseAt k (buildPerm s).perm (slotTex k d) abs normalize band x y))
  | .cells d a outer =>
      anyTexel (slotTex k d) fun x y =>
        onTexels e (slotTex k a)
          (gradientTexels g (slotTex k a) (cellOf k (slotTex k d) outer (loadCells s).scratch.cells x y).1)
  | .glowrect d _ b =>
      anyDrawn k (slotTex k d) (glowBounds k) fun u v =>
        glowInside k u v && onTexels e (slotTex k b) (gradientTexels g (slotTex k b) (shl (glowDist k u v) 8))
  | .coordMatrix d a mode =>
      anyTexel (slotTex k d) fun x y =>
        onTexels e (slotTex k a)
          (filteredTexels (slotTex k a) (coordAt k (slotTex k d) 0 x y) (coordAt k (slotTex k d) 1 x y) mode)
  | .colorRemap d a b c f =>
      anyTexelPainting (slotTex k d)
        (fun x y m => remapPixel g m (slotTex k b) (slotTex k c) (slotTex k f) (texRead m (slotTex k a) x y))
        (fun x y m => remapHit g e (slotTex k b) (slotTex k c) (slotTex k f) (texRead m (slotTex k a) x y)) s.mem
  | .coordRemap d a b mode =>
      anyTexelPainting (slotTex k d)
        (fun x y m => displacedPixel k m (slotTex k d) (slotTex k a) mode x y (texRead m (slotTex k b) x y))
        (fun x y m => onTexels e (slotTex k a)
          (filteredTexels (slotTex k a) (displacedU k (slotTex k d) x (texRead m (slotTex k b) x y))
            (displacedV k (slotTex k d) y (texRead m (slotTex k b) x y)) mode)) s.mem
  | .paste d _ b mode _ =>
      anyDrawn k (slotTex k d) (pasteBounds k) fun u v =>
        pasteInside u v && onTexels e (slotTex k b) (filteredTexels (slotTex k b) (shl u 8) (shl v 8) mode)
  | .bump d a b c f directional spec falloff =>
      anyTexelPainting (slotTex k d)
        (fun x y m => bumpPixel g k m (slotTex k c) (slotTex k f) spec falloff (texRead m (slotTex k a) x y)
          (texRead m (slotTex k b) x y) (lightVector k (slotTex k d) directional x y))
        (fun x y m => bumpHit g k e (slotTex k c) (slotTex k f) spec falloff (texRead m (slotTex k b) x y)
          (lightVector k (slotTex k d) directional x y)) s.mem
  | .linearCombine d =>
      anyTexel (slotTex k d) fun x y =>
        combineHit e (loadInputs s).scratch.inputs (centre (slotTex k d).sx x) (centre (slotTex k d).sy y)
  | .nop | .pixInit8 | .pixInit32 | .pixLerp | .pixAdd | .pixMulc | .pixOver | .pixScreen
  | .texCopy .. | .colorMatrix .. | .derive .. | .blur .. | .ternary .. => false

/-! ## The bytes a command reads or writes -/

/-- How many of the records from record `i` are read: those before the first that fails a check, and that
one (R404 (5), log 23). -/
def recordsRead (i : Nat) : List InputRecord → Nat
  | [] => 0
  | r :: rs => if firstError (recordChecks i r) = none then recordsRead (i + 1) rs + 1 else 1

/-- The range of the list that pre-flight reads, its register checks passed. -/
def listRead (k : Snapshot) (m : Memory) (i : Instr) : Extent :=
  match i with
  | .cells .. => cellList k
  | .linearCombine _ => ⟨listAddr k, 24 * recordsRead 0 (inputListRecords k m)⟩
  | .nop | .smpNearest .. | .smpBilinear .. | .smpFiltered .. | .smpGradient .. | .pixInit8 | .pixInit32
  | .pixLerp | .pixAdd | .pixMulc | .pixOver | .pixScreen | .texCopy .. | .noise .. | .glowrect ..
  | .colorMatrix .. | .coordMatrix .. | .colorRemap .. | .coordRemap .. | .derive .. | .blur ..
  | .ternary .. | .paste .. | .bump .. => ⟨0, 0⟩

/-- The slots every byte of which a body reads or writes: the destination, and those compatible with it. -/
def wholeSlots (i : Instr) : List Slot :=
  match destSlot i with
  | some d => d :: compatSlots i
  | none => []

/-- Whether the body of `i` reads or writes a byte of `e`. -/
def bodyTouches (s : State) (e : Extent) (i : Instr) : Bool :=
  (slotExtents s.snap (wholeSlots i)).any (fun f => e.meets f) || samples s e i

/-- Whether command `i` reads or writes a byte of `e`: its list in pre-flight, and the rest in a body that
pre-flight allows. A port that reports no error is what it is judged by (log 12). -/
def touches (s : State) (e : Extent) (i : Instr) : Bool :=
  firstError (registerChecks i s.snap) = none &&
    (e.meets (listRead s.snap s.mem i) ||
      (firstError (listChecks i s.snap s.mem .ok) = none && bodyTouches s e i))

/-- Whether the running command reads or writes a byte of `e` (20_memory.md R108). -/
def races (s : State) (e : Extent) : Bool :=
  s.status.busy &&
    match decode s.snap.cmd with
    | .command i => touches s e i
    | .error _ => false

/-! ## What a race leaves open -/

/-- The addresses of the bytes of `e`. -/
def Extent.bytes (e : Extent) : List Nat := (List.range e.len).map fun j => e.base + j

/-- A racing host write of the bytes of `e` (R108: the written bytes take any value). A byte the command
reads or writes keeps its value until the command ends, no access of which the host can order before
(log 12); any other takes a free value at once. -/
def raceWrite (s : State) (e : Extent) : State :=
  { s with
    mem := openBytes s.freeIx (e.bytes.filter fun a => !races s ⟨a, 1⟩) s.mem
    raced := (e.bytes.filter fun a => races s ⟨a, 1⟩) ++ s.raced
    freeIx := s.freeIx + 1 }

/-- A racing host read of the bytes of `e` returns any value of its width (R108). -/
def raceRead (s : State) (e : Extent) : State :=
  { s with
    hostData := BitVec.ofNat 64 ((Config.freeBits s.freeIx).toNat % 2 ^ (8 * e.len))
    freeIx := s.freeIx + 1 }

/-- The results of a body that a host write raced with: every destination pixel, or the result of the
samples, takes any value (R108, log 12). -/
def openResult (i : Instr) (s : State) : State :=
  match destSlot i with
  | some d => spoil s (slotTex s.snap d)
  | none => if usedSlots i = [] ∨ s.port = .bodyError then s else spoilRes s

/-- The end `t` of command `i`, run from `s`: what a race leaves open, if there was one (R108). A command
that ends in its register checks reads and writes nothing, so that nothing can race with it. -/
def settle (i : Instr) (s t : State) : State :=
  if s.raced = [] then t
  else if firstError (registerChecks i s.snap) = none then closeRace (openResult i t)
  else closeRace t

/-- What a command answers, its race settled. -/
def settling (i : Instr) (s : State) : Result → Result
  | .next t => .next (settle i s t)
  | .fault f => .fault f
  | .refused r => .refused r

end Sys2Proof.Machine
end

