-- ==== Sys2Proof/Machine/Port.lean ====
section
/-! DEFINITION. The host's side: the register port (10_state.md R41 to R57) and the host bus
(20_memory.md R90, R107, R108, R113). -/

namespace Sys2Proof.Machine

/-- The register at byte offset `off` of the block, a multiple of 4 (10_state.md R41). -/
def regAt (off : Nat) : Reg :=
  if off = 0x000 then .id
  else if off = 0x004 then .version
  else if off = 0x008 then .ctrl
  else if off = 0x00C then .status
  else if off = 0x010 then .cmd
  else if off = 0x014 then .errinfo
  else if off = 0x018 then .resRg
  else if off = 0x01C then .resBa
  else if 0x040 ≤ off ∧ off < 0x080 then
    (if off % 8 = 0 then .tdBase (BitVec.ofNat 3 ((off - 0x040) / 8))
     else .tdSize (BitVec.ofNat 3 ((off - 0x040) / 8)))
  else if 0x100 ≤ off ∧ off < 0x200 then .param (BitVec.ofNat 6 ((off - 0x100) / 4))
  else .reserved

/-- What a register reads as (10_state.md R41 to R57). No read has a side effect. -/
def readReg (s : State) : Reg → Word
  | .id => 0x41544531
  | .version => 0x00000001
  | .ctrl => ctrlWord s.ctrl
  | .status => statusWord s.status
  | .cmd => s.cmd
  | .errinfo => s.errinfo
  | .resRg => s.resRg
  | .resBa => s.resBa
  | .tdBase n => tdBaseWord (s.td[n.toNat]'n.isLt)
  | .tdSize n => tdSizeWord (s.td[n.toNat]'n.isLt)
  | .param k => s.param[k.toNat]'k.isLt
  | .reserved => 0

/-- A descriptor after a write of `v` to its TD_BASE: bits 2:0 ignored (10_state.md R55). -/
def descBaseWritten (d : Desc) (v : Word) : Desc := { d with base := v.extractLsb' 3 29 }

/-- A descriptor after a write of `v` to its TD_SIZE: only SX and SY are written (10_state.md R55). -/
def descSizeWritten (d : Desc) (v : Word) : Desc :=
  { d with sx := v.extractLsb' 0 4, sy := v.extractLsb' 8 4 }

/-- A host write of `v` to CTRL: bit 31 is the soft reset, which takes no other bit of the write
(10_state.md R43, 70_reset_and_hazards.md R452). -/
def writeCtrl (s : State) (v : Word) : State :=
  if v.getLsbD 31 then softReset s else { s with ctrl := ctrlOfWord v }

/-- A host write of `v` to CMD: accepted when idle, dropped with OVR when busy (10_state.md R46,
60_exceptions.md R407). -/
def writeCmd (s : State) (v : Word) : State :=
  if s.status.busy then { s with status := statusOverrun s.status } else accept s v

/-- A host write of `v` to a register (10_state.md R41 to R57): read-only and reserved registers
ignore it. -/
def writeReg (s : State) (r : Reg) (v : Word) : State :=
  match r with
  | .ctrl => writeCtrl s v
  | .status => writeStatus s v
  | .cmd => writeCmd s v
  | .tdBase n =>
      { s with td := s.td.set n.toNat (descBaseWritten (s.td[n.toNat]'n.isLt) v) n.isLt }
  | .tdSize n =>
      { s with td := s.td.set n.toNat (descSizeWritten (s.td[n.toNat]'n.isLt) v) n.isLt }
  | .param k => { s with param := s.param.set k.toNat v k.isLt }
  | .id | .version | .errinfo | .resRg | .resBa | .reserved => s

/-! ## The host bus -/

/-- The number of bytes of an access. -/
def widthBytes : Width → Nat
  | .w8 => 1
  | .w16 => 2
  | .w32 => 4
  | .w64 => 8

/-- A register access must be 32 bits wide at a multiple of 4 (10_state.md R49). -/
def regAccessOk (off : Nat) (w : Width) : Bool := w == .w32 && off % 4 == 0

/-- A host write at offset `off` of the register block. While the reset input is asserted, writes are
ignored (70_reset_and_hazards.md R450). -/
def busWriteReg (s : State) (off : Nat) (w : Width) (v : BitVec 64) : Result :=
  if !regAccessOk off w then .refused .registerAccess
  else if s.rst then .next s
  else .next (writeReg s (regAt off) (v.setWidth 32))

/-- A host read at offset `off` of the register block. While the reset input is asserted, the read
returns a free value (70_reset_and_hazards.md R450, log 11). -/
def busReadReg (s : State) (off : Nat) (w : Width) : Result :=
  if !regAccessOk off w then .refused .registerAccess
  else if s.rst then
    .next { s with hostData := (Config.freeWord s.freeIx).setWidth 64, freeIx := s.freeIx + 1 }
  else .next { s with hostData := (readReg s (regAt off)).setWidth 64 }

/-- A host memory access to byte range `e`: it must lie in the memory space, and outside the windows with
side effects (R99). It is `race` when it races with the running command (R108), else `go`. -/
def onMemory (s : State) (e : Extent) (race go : State) : Result :=
  if 2 ^ 32 < e.base + e.len then .fault .outsideMemory
  else if reachesWindow s.cfg [e] then .refused .sideEffects
  else if races s e then .next race
  else .next go

/-- REG_BASE (10_state.md R41). -/
def regBase (c : Config) : Nat := 4096 * c.regPage

/-- Whether a bus address lies in the register block (20_memory.md R90). -/
def inRegBlock (c : Config) (addr : Nat) : Bool := decide (regBase c ≤ addr ∧ addr < regBase c + 4096)

/-- A host write of `v` at bus address `addr`. -/
def busWrite (s : State) (addr : Nat) (w : Width) (v : BitVec 64) : Result :=
  if inRegBlock s.cfg addr then busWriteReg s (addr - regBase s.cfg) w v
  else onMemory s ⟨addr, widthBytes w⟩ (raceWrite s ⟨addr, widthBytes w⟩)
    { s with mem := memWrite s.mem addr v.toNat (widthBytes w) }

/-- A host read at bus address `addr`. -/
def busRead (s : State) (addr : Nat) (w : Width) : Result :=
  if inRegBlock s.cfg addr then busReadReg s (addr - regBase s.cfg) w
  else onMemory s ⟨addr, widthBytes w⟩ (raceRead s ⟨addr, widthBytes w⟩)
    { s with hostData := BitVec.ofNat 64 (memRead s.mem addr (widthBytes w)) }

/-- What an input other than the engine's turn does. -/
def hostMove (s : State) : Input → Result
  | .busWrite addr w v => busWrite s addr w v
  | .busRead addr w => busRead s addr w
  | .port p => .next { s with port := p }
  | .resetPin level => .next (setResetPin s level)
  | .engine => .next s

end Sys2Proof.Machine
end

