-- ==== Sys2Proof/Machine/Engine.lean ====
section
/-! DEFINITION. The engine's turn, and the move of whichever agent is next (10_state.md R40; log 6). -/

namespace Sys2Proof.Machine

/-- Where the engine takes its command word from: the snapshot (10_state.md R56). -/
def fetchWord (s : State) : Word := s.snap.cmd

/-- Runs the accepted command: its word decodes to a command, or ends with the error its decoding
raises (30_encoding.md R131, R137); a race with it is settled at its end (20_memory.md R108). -/
def runCommand (s : State) : Result :=
  match decode (fetchWord s) with
  | .command i => settling i s (exec i s)
  | .error e => .next (closeRace (raiseError s e))

/-- The engine's turn: an idle engine, or one held in reset, does nothing (60_exceptions.md R425,
70_reset_and_hazards.md R450). -/
def engineTurn (s : State) : Result :=
  if s.rst then .next s
  else if s.status.busy then runCommand s
  else .next s

/-- The next agent's move: the first input, or the engine's turn when none is left (log 6). -/
def nextMove (s : State) : Result :=
  match s.inputs with
  | [] => engineTurn s
  | .engine :: rest => engineTurn { s with inputs := rest }
  | i :: rest => hostMove { s with inputs := rest } i

/-- The state in which command word `w` has just been accepted and the engine moves next. -/
def withCommand (s : State) (w : Word) : State :=
  { accept s w with
    rst := false
    inputs := match s.inputs with
      | [] => []
      | i :: rest => .engine :: i :: rest }

end Sys2Proof.Machine
end

