-- ==== Sys2Proof/Machine/Step.lean ====
section
/-! DEFINITION. One step of the machine. -/

namespace Sys2Proof.Machine

/-- One move of one agent: the first of `s.inputs`, or the engine. -/
def step (s : State) : Host.Outcome State Fault Refusal := nextMove s

/-- `s` with command word `w` accepted, so that the next step runs it: what a host write of `w` to CMD
does (10_state.md R46), with the engine's turn next and the reset input released (log 7). A command is
one 32-bit word (30_encoding.md R120), so no bit stands above `nbits`. -/
def State.withFetchWord (s : State) (_nbits w : Nat) : State := withCommand s (BitVec.ofNat 32 w)

end Sys2Proof.Machine
end

