-- ==== Sys2Proof/Safety.lean ====
section
/-! DEFINITION. The terms the statements use: what a command may change, when nothing outside the
machine stands in a command's way, and what always holds of a run's states. -/

namespace Sys2Proof.Machine

/-! ## What changes -/

/-- The result pixel in RES_RG and RES_BA (10_state.md R48). -/
def resPixel (s : State) : Pixel := pixelOfWords s.resRg s.resBa

/-- STATUS of a command that ended normally: BUSY 0, DONE 1, the rest as it was (60_exceptions.md R400). -/
def EndedNormally (s t : State) : Prop := t.status = { s.status with busy := false, done := true }

/-- `t` is `s` but for STATUS and the result registers. -/
def OnlyResult (s t : State) : Prop :=
  t = { s with status := t.status, resRg := t.resRg, resBa := t.resBa }

/-- `t` is `s` but for STATUS and memory. -/
def OnlyMemory (s t : State) : Prop := t = { s with status := t.status, mem := t.mem }

/-- `t` is `s` but for STATUS, memory and the scratch storage, whose free value moves the counter
(10_state.md R61). -/
def OnlyMemoryScratch (s t : State) : Prop :=
  t = { s with status := t.status, mem := t.mem, scratch := t.scratch, freeIx := t.freeIx }

/-- STATUS and ERRINFO after an error: the first error is kept (60_exceptions.md R402, 10_state.md R45). -/
def EndedWithError (s t : State) (e : CmdError) : Prop :=
  t.status = { s.status with
    busy := false
    done := true
    err := true
    errcode := if s.status.err then s.status.errcode else codeOf e.code } ∧
  t.errinfo = if s.status.err then s.errinfo else e.info

/-- `t` is `s` but for STATUS and ERRINFO: the failing command's effect is none (60_exceptions.md R412). -/
def OnlyError (s t : State) : Prop := t = { s with status := t.status, errinfo := t.errinfo }

/-- The command ends with error `e` and has no other effect (60_exceptions.md R402, R412). -/
def FailsWith (i : Instr) (s : State) (e : CmdError) : Prop :=
  ∃ t, exec i s = .next t ∧ EndedWithError s t e ∧ OnlyError s t

/-- Every byte outside `e` reads as before. -/
def SameOutside (e : Extent) (m m' : Memory) : Prop := ∀ a, ¬ e.has a → m'.read a = m.read a

/-- Every byte reads as before. -/
def SameEverywhere (m m' : Memory) : Prop := ∀ a, m'.read a = m.read a

/-- Of memory `m'` differs from that of `s` at most in the destination of the running command and in the
bytes a host has raced for (70_reset_and_hazards.md R453, 20_memory.md R108). -/
def OpensOnlyTheRunning (s : State) (m' : Memory) : Prop :=
  ∀ a, a ∉ s.raced →
    (∀ i d, decode s.snap.cmd = .command i → destSlot i = some d → ¬ (slotTex s.snap d).extent.has a) →
    m'.read a = s.mem.read a

/-- `t` is the end `u` of command `i`, a race with it settled: STATUS and every register but RES are as of
the end without a race; every raced byte, and the destination or the result of a sample, takes any value
(20_memory.md R108, log 12). -/
def SettledFrom (i : Instr) (s u t : State) : Prop :=
  t = { u with mem := t.mem, resRg := t.resRg, resBa := t.resBa, raced := [], freeIx := t.freeIx } ∧
  (destSlot i ≠ none ∨ usedSlots i = [] ∨ s.port = .bodyError → t.resRg = u.resRg ∧ t.resBa = u.resBa) ∧
  ∀ a, a ∉ s.raced → (∀ d, destSlot i = some d → ¬ (slotTex s.snap d).extent.has a) → t.mem.read a = u.mem.read a

/-- A command that writes RES ended normally with result `p`, and changed nothing else. -/
def CompletedPixel (s t : State) (p : Pixel) : Prop := EndedNormally s t ∧ OnlyResult s t ∧ resPixel t = p

/-- A command that writes texture `d` ended normally, and changed nothing outside its extent. -/
def CompletedTexture (s t : State) (d : Tex) : Prop :=
  EndedNormally s t ∧ OnlyMemory s t ∧ SameOutside d.extent s.mem t.mem

/-- The same for a command that uses the scratch storage. -/
def CompletedWithScratch (s t : State) (d : Tex) : Prop :=
  EndedNormally s t ∧ OnlyMemoryScratch s t ∧ SameOutside d.extent s.mem t.mem

/-- `r` with `f` done to its next state. -/
def mapNext (f : State → State) : Result → Result
  | .next s => .next (f s)
  | .fault x => .fault x
  | .refused x => .refused x

/-! ## When a command is legal -/

/-- A slot passes its two checks (41_sampler.md R191). -/
def SlotOk (k : Snapshot) (n : Slot) : Prop := (slotTex k n).sizeOk = true ∧ (slotTex k n).fits = true

/-- Two slots hold compatible textures (41_sampler.md R192). -/
def SameSize (k : Snapshot) (d n : Slot) : Prop := (slotTex k d).compatible (slotTex k n) = true

/-- The memory port reports no error, and none of the ranges meets a window with side effects
(60_exceptions.md R406, 20_memory.md R99). -/
def Quiet (s : State) (es : List Extent) : Prop := s.port = .ok ∧ reachesWindow s.cfg es = false

/-- The texture of slot `n` is that of slot `d`, or shares no byte with it. -/
def ApartOrSame (k : Snapshot) (d n : Slot) : Prop :=
  slotTex k n = slotTex k d ∨ (slotTex k d).extent.meets (slotTex k n).extent = false

/-- The texture of slot `n` shares no byte with that of slot `d`. -/
def Apart (k : Snapshot) (d n : Slot) : Prop := (slotTex k d).extent.meets (slotTex k n).extent = false

/-- (x, y) is a texel of `t`. -/
def InTex (t : Tex) (x y : Nat) : Prop := x < t.w ∧ y < t.h

/-- A command's slots pass their checks, are compatible where they must be, and nothing outside the
machine stands in its way. -/
def Ready (i : Instr) (s : State) : Prop :=
  (∀ n ∈ usedSlots i, SlotOk s.snap n) ∧
  (∀ d, destSlot i = some d → ∀ n ∈ compatSlots i, SameSize s.snap d n) ∧
  Quiet s (footprint s.snap s.mem i)

/-- Every coefficient PARAM[16..31] is in [-127, 127] (43_filters.md R279). -/
def CoefsOk (k : Snapshot) : Prop := ∀ j, 16 ≤ j → j < 32 → -127 * 65536 ≤ param k j ∧ param k j ≤ 127 * 65536

/-- The commands that write the result registers (10_state.md R48). -/
def writesResult : Instr → Bool
  | .smpNearest .. | .smpBilinear .. | .smpFiltered .. | .smpGradient .. | .pixInit8 | .pixInit32
  | .pixLerp | .pixAdd | .pixMulc | .pixOver | .pixScreen => true
  | .nop | .texCopy .. | .noise .. | .cells .. | .glowrect .. | .colorMatrix .. | .coordMatrix ..
  | .colorRemap .. | .coordRemap .. | .derive .. | .blur .. | .ternary .. | .paste .. | .bump ..
  | .linearCombine .. => false

/-! ## Arithmetic as the rules' prose gives it -/

/-- The channels, in the order r, g, b, a (00_scope.md R13). -/
def channels : List (Pixel → U16) := [Pixel.r, Pixel.g, Pixel.b, Pixel.a]

/-- The color channels. -/
def colors : List (Pixel → U16) := [Pixel.r, Pixel.g, Pixel.b]

/-- `a * b / 65535`, rounded half up (40_pixel.md R161). -/
def roundMul (a b : Nat) : Nat := (2 * (a * b) + 65535) / 131070

/-- A coordinate after the wrap-or-clamp step of an axis of `2 ^ shift` texels (41_sampler.md R193). -/
def onAxis (c : Int) (shift : Nat) (clamped : Bool) : Int :=
  (if clamped then min (max c (2 ^ (23 - shift))) (2 ^ 24 - 2 ^ (23 - shift)) else c) % 2 ^ 24

/-- The texel that holds a coordinate in 0..2^24 - 1: the integer part of `c * 2 ^ shift`. -/
def texelOf (c : Int) (shift : Nat) : Nat := (c * 2 ^ shift / 2 ^ 24).toNat

/-- The 16 bits below the texel index: the fraction of `c * 2 ^ shift` in units of 2^-16. -/
def weightOf (c : Int) (shift : Nat) : Int := c * 2 ^ shift % 2 ^ 24 / 2 ^ 8

/-- Pixel `x` of an axis lies in the box from `lo` to `hi` (42_generators.md R248). -/
def InBox (shift : Nat) (lo hi : Int) (x : Nat) : Prop :=
  lo * 2 ^ shift / 2 ^ 16 ≤ x ∧ (x : Int) ≤ -(-(hi * 2 ^ shift) / 2 ^ 16)

/-- `abs(v)` (00_scope.md R11). -/
def magnitude (v : Int) : Int := max v (-v)

/-- `DET` (42_generators.md R249); PARAM[2..5] are UX, UY, VX, VY (R248). -/
def determinant (k : Snapshot) : Int := param k 2 * param k 5 - param k 3 * param k 4

/-- The transform is not skipped: its area is at least a quarter pixel (42_generators.md R249). -/
def Draws (k : Snapshot) (d : Tex) : Prop := 2 ^ 30 ≤ magnitude (determinant k) * 2 ^ (d.sx + d.sy)

/-- The corner pixel of a box from `lo`, an axis of `2 ^ shift` pixels (42_generators.md R248). -/
def corner (shift : Nat) (lo : Int) : Int := max 0 (lo * 2 ^ shift / 2 ^ 16)

/-- `RMX`, or with the other axis' origin `RMY`, of corner pixel `c` (42_generators.md R249). -/
def cornerFrom (shift : Nat) (origin c : Int) : Int := (2 * c + 1) * 2 ^ 16 - origin * 2 ^ (shift + 1)

/-- The parallelogram coordinate of pixel (x, y) of a box from `lox`, `loy`: `u0` or `v0` of the box corner,
and a step for each pixel right and down of it (42_generators.md R249). PARAM[0..1] are ORGX, ORGY. -/
def walkU (k : Snapshot) (d : Tex) (lox loy : Int) (x y : Nat) : Int :=
  let rmx := cornerFrom d.sx (param k 0) (corner d.sx lox)
  let rmy := cornerFrom d.sy (param k 1) (corner d.sy loy)
  Int.tdiv ((rmx * param k 5 * 2 ^ d.sy - rmy * param k 4 * 2 ^ d.sx) * 2 ^ 15) (determinant k * 2 ^ (d.sx + d.sy))
    + (y - corner d.sy loy) * Int.tdiv (-param k 4 * 2 ^ 32) (determinant k * 2 ^ d.sy)
    + (x - corner d.sx lox) * Int.tdiv (param k 5 * 2 ^ 32) (determinant k * 2 ^ d.sx)
def walkV (k : Snapshot) (d : Tex) (lox loy : Int) (x y : Nat) : Int :=
  let rmx := cornerFrom d.sx (param k 0) (corner d.sx lox)
  let rmy := cornerFrom d.sy (param k 1) (corner d.sy loy)
  Int.tdiv ((param k 2 * rmy * 2 ^ d.sx - param k 3 * rmx * 2 ^ d.sy) * 2 ^ 15) (determinant k * 2 ^ (d.sx + d.sy))
    + (y - corner d.sy loy) * Int.tdiv (param k 2 * 2 ^ 32) (determinant k * 2 ^ d.sy)
    + (x - corner d.sx lox) * Int.tdiv (-param k 3 * 2 ^ 32) (determinant k * 2 ^ d.sx)

/-- The bounds of GLOWRECT's box on an axis (42_generators.md R251). -/
def glowLow (o u v : Int) : Int := o - magnitude u - magnitude v
def glowHigh (o u v : Int) : Int := o + magnitude u + magnitude v

/-- The bounds of PASTE's box on an axis (44_combiners.md R335). -/
def pasteLow (o u v : Int) : Int := o + min u 0 + min v 0
def pasteHigh (o u v : Int) : Int := o + max u 0 + max v 0

/-- `du`, or `dv`, at coordinate `u` for RECTU, or RECTV (42_generators.md R250). -/
def glowOnAxis (rect u : Int) : Int :=
  let r := min (max rect 0) 65536
  if r = 65536 then 0 else max (magnitude u - r) 0 * 2 ^ 16 / (65536 - r)

/-- `d` at parallelogram coordinate (u, v) (42_generators.md R250). -/
def glowDistance (k : Snapshot) (u v : Int) : Int :=
  (glowOnAxis (param k 6) u ^ 2 + glowOnAxis (param k 7) v ^ 2) / 2 ^ 16

/-- `key[i]`: the LFSR's value after `i` steps (42_generators.md R230). -/
def lfsrKey (seed taps : Word) : Nat → Word
  | 0 => seed
  | i + 1 => lfsrStep taps (lfsrKey seed taps i)

/-- The first octave's amplitude S0 (42_generators.md R235). -/
def firstAmplitude (f : Int) (oct : Nat) (normalize : Bool) : Int :=
  if normalize then
    if f = 65536 then 65536 / (oct : Int)
    else Int.fdiv (65536 * (f - 65536) * 65536 ^ (oct - 1)) (f ^ oct - 65536 ^ oct)
  else if f ≤ 65536 then 65536
  else 2 ^ 32 / f

/-- The amplitude of octave `i` (42_generators.md R235). -/
def amplitude (s0 f : Int) : Nat → Int
  | 0 => s0
  | i + 1 => (amplitude s0 f i * f + 32768) / 65536

/-- The first octave's position of pixel `x` on an axis of `2 ^ shift` pixels and `2 ^ f` cells: the pixel's
centre (42_generators.md R236). -/
def firstPosition (shift f x : Nat) : Word :=
  BitVec.ofNat 32 (x * 2 ^ (16 - shift + f) + 2 ^ (16 - shift + f) / 2)

/-- The gradient index of pixel (x, y) of `d`: the octaves' sum, each at 2^i times the position, with masks
of i more bits and the amplitude of R235 (42_generators.md R236, R237); PARAM[0..4] are FREQX, FREQY, the
octave count, FADEOFF and the seed (R238). -/
def octaveIndex (k : Snapshot) (pt : Array (BitVec 12)) (d : Tex) (abs normalize band : Bool) (x y : Nat) : Int :=
  let fx := (param k 0).toNat
  let fy := (param k 1).toNat
  let oct := (param k 2).toNat
  let acc := ((List.range oct).map fun i =>
    let nv := basis pt (firstPosition d.sx fx x * BitVec.ofNat 32 (2 ^ i)) (firstPosition d.sy fy y * BitVec.ofNat 32 (2 ^ i))
      (2 ^ (fx + i) - 1) (2 ^ (fy + i) - 1) (paramU k 4 % 4096) band
    (if abs then magnitude nv else nv) * amplitude (firstAmplitude (param k 3) oct normalize) (param k 3) i).sum
  if abs then acc / 2 ^ 8 else 2 ^ 23 + acc / 2 ^ 9

/-- Pixel (x, y) after BLUR's horizontal pass over `a` (43_filters.md R307). -/
def blurredAcross (m : Memory) (a : Tex) (s order : Nat) (clampm : Bool) (x y : Nat) : Pixel :=
  if 32 < s then (blurLine (rowOf m a y) a.w s clampm order).getD x default else texRead m a x y

/-- Pixel (x, y) after both passes (43_filters.md R307). -/
def blurredBoth (m : Memory) (a : Tex) (sx sy order : Nat) (clampU clampV : Bool) (x y : Nat) : Pixel :=
  if 32 < sy then
    (blurLine ((List.range a.h).map fun j => blurredAcross m a sx order clampU x j).toArray a.h sy clampV
      order).getD y default
  else blurredAcross m a sx order clampU x y

/-! ## What always holds -/

/-- Memory is canonical. -/
def MemoryCanonical (s : State) : Prop := s.mem.wf

/-- Every listed byte, and every byte a host has raced for, lies in the memory space (20_memory.md R93: no
address leaves it). -/
def MemoryInSpace (s : State) : Prop := s.mem.inSpace ∧ ∀ a ∈ s.raced, a < 2 ^ 32

/-- A host races with a running command only (20_memory.md R108), and none runs while the reset input is
asserted (70_reset_and_hazards.md R450). -/
def RaceFieldsRight (s : State) : Prop :=
  (s.status.busy = false → s.raced = []) ∧ (s.rst = true → s.status.busy = false)

/-- While PERM_READY = 1 the table is the one R230 builds (10_state.md R60). -/
def TableRight (s : State) : Prop :=
  s.status.permReady = true → s.perm = (permTable s.cfg.permSeed s.cfg.permTaps).toArray

/-- While ERR = 0, ERRCODE and ERRINFO are 0; ERRCODE never passes 0x0B (60_exceptions.md R401). -/
def ErrorFieldsRight (s : State) : Prop :=
  (s.status.err = false → s.status.errcode = 0 ∧ s.errinfo = 0) ∧ s.status.errcode.toNat ≤ 0x0B

end Sys2Proof.Machine
end

