-- ==== Sys2Proof/Certificates/Slice0/Obligations.lean ====
section
/-! DEFINITION. The statements for the provers. Each docstring names the rule of spec/ it formalises. -/

open Sys2Proof Sys2Proof.Machine

/-! ## Decoding -/

/-- Every well-formed command is read back from its word (30_encoding.md R121, R130, R131). -/
def Obligations.DecodeOfEncode : Prop := ∀ i : Instr, i.wf = true → decode (encode i) = .command i

/-- A word that decodes to a command is that command's word, and the command is well formed: no other
word means it (30_encoding.md R123, R130). -/
def Obligations.EncodeOfDecode : Prop := ∀ (w : Word) (i : Instr), decode w = .command i → i.wf = true ∧ encode i = w

/-- The encoding examples of 30_encoding.md R141. -/
def Obligations.SpecExampleWords : Prop :=
  [(.nop, 0x00000000), (.smpNearest 1 ⟨true, true⟩, 0x01800801), (.smpFiltered 2 ⟨⟨true, false⟩, true⟩, 0x02801003),
   (.texCopy 0 1, 0x00000810), (.noise 0 1 false true true, 0x18000820),
   (.paste 0 1 2 ⟨⟨false, false⟩, true⟩ .over, 0x1E008841), (.bump 0 1 2 3 0 true true false, 0x0C068842)].Forall
    fun (p : Instr × Word) => encode p.1 = p.2 ∧ decode p.2 = .command p.1

/-- 30_encoding.md R123: a word with a listed opcode and a non-zero unused bit fails with E_RESERVED and
the position of the lowest such bit; a word without one does not fail so. -/
def Obligations.UnusedBitsMustBeZero : Prop :=
  ∀ (w : Word) (i : Instr), opField w = opField (matchMask i).1 →
    (w &&& (matchMask i).2 ≠ (matchMask i).1 →
      ∃ k < 32, decode w = .error ⟨.reserved, BitVec.ofNat 32 k⟩ ∧
        (w.getLsbD k && (matchMask i).2.getLsbD k) = true ∧ (matchMask i).1.getLsbD k = false ∧
        ∀ j < k, (w.getLsbD j && (matchMask i).2.getLsbD j) = (matchMask i).1.getLsbD j) ∧
    (w &&& (matchMask i).2 = (matchMask i).1 →
      (∃ c, decode w = .command c ∧ encode c = w) ∨
      ((opField w = 0x41 ∨ opField w = 0x42) ∧ ∃ e, decode w = .error e))

/-- The other decoding errors: an OP that is no opcode of the map (30_encoding.md R131 (1), R137), BUMP's
conditional fields (R126) and PASTE's undefined blend modes (R125); every other word of the three is a
command. -/
def Obligations.OtherDecodeErrors : Prop :=
  ∀ w : Word,
    ((∀ i : Instr, opField w ≠ opField (matchMask i).1) → decode w = .error ⟨.opcode, 0⟩) ∧
    (w &&& 0xE38000FF = 0x00000042 →
      (subBit w 1 = false → cField w ≠ 0 → decode w = .error ⟨.reserved, 17⟩) ∧
      ((subBit w 1 = true ∨ cField w = 0) → subBit w 2 = false → eField w ≠ 0 → decode w = .error ⟨.reserved, 20⟩) ∧
      ((subBit w 1 = true ∨ cField w = 0) → (subBit w 2 = true ∨ eField w = 0) → ∃ i, decode w = .command i)) ∧
    (w &&& 0x007E00FF = 0x00000041 →
      (12 ≤ (subField w).toNat → decode w = .error ⟨.subop, 0⟩) ∧
      ((subField w).toNat < 12 → ∃ i, decode w = .command i))

/-! ## The step -/

/-- The engine's turn runs the accepted command, and what decoding refuses ends with its error. The
engine moves when no input is left, or when its turn stands first (log 6). A command that no host has raced
with (20_memory.md R108) answers as `exec` does; a race is settled at its end (log 12). -/
def Obligations.StepRunsDecodedCommand : Prop :=
  ∀ (s : State) (rest : List Input), s.rst = false → s.status.busy = true →
    (s.inputs = [] ∨ s.inputs = .engine :: rest) →
    let u := { s with inputs := s.inputs.tail }
    (∀ i, decode s.snap.cmd = .command i →
      step s = settling i u (exec i u) ∧ (s.raced = [] → step s = exec i u)) ∧
    (∀ e, decode s.snap.cmd = .error e →
      ∃ t, step s = .next (closeRace t) ∧ EndedWithError u t e ∧ OnlyError u t ∧ (s.raced = [] → step s = .next t))

/-- A host write to CMD. On an idle engine it is accepted, and the engine's next turn runs the command on
the registers as they stand at the write; on a busy one it is dropped and sets OVR alone (10_state.md R46,
R56; 60_exceptions.md R407). That the engine moves next is the inputs' order (log 6). -/
def Obligations.CmdWriteRunsTheCommandOrOverruns : Prop :=
  ∀ (s : State) (v : BitVec 64) (rest : List Input), s.rst = false →
    s.inputs = .busWrite (regBase s.cfg + 0x010) .w32 v :: .engine :: rest →
    (s.status.busy = false →
      ∃ t, step s = .next t ∧
        t = { s with
          inputs := .engine :: rest
          cmd := v.setWidth 32
          status := { s.status with busy := true, done := false }
          snap := ⟨v.setWidth 32, s.td, s.param⟩
          raced := [] } ∧
        ∀ i, decode (v.setWidth 32) = .command i → step t = exec i { t with inputs := rest }) ∧
    (s.status.busy = true →
      step s = .next { s with inputs := .engine :: rest, status := { s.status with ovr := true } })

/-! ## Invariants -/

/-- Every step keeps memory canonical and inside the memory space (20_memory.md R90, R93: no address
wraps or leaves it), and keeps no record of a race but with a running command (R108). -/
def Obligations.StepKeepsMemoryForm : Prop :=
  ∀ s t : State, step s = .next t →
    (MemoryCanonical s → MemoryInSpace s → MemoryCanonical t ∧ MemoryInSpace t) ∧
    (RaceFieldsRight s → RaceFieldsRight t)

/-- Every step keeps the permutation table right while it is in use (10_state.md R60). -/
def Obligations.StepKeepsNoiseTable : Prop := ∀ s t : State, TableRight s → step s = .next t → TableRight t

/-- Every step keeps the error fields consistent: no code without ERR, and no code past 0x0B. While ERR
stays 1 no step changes ERRCODE or ERRINFO: the first error is kept (60_exceptions.md R401, R402;
10_state.md R44, R45). -/
def Obligations.StepKeepsErrorFields : Prop :=
  ∀ s t : State, step s = .next t →
    (ErrorFieldsRight s → ErrorFieldsRight t) ∧
    (s.status.err = true → t.status.err = true → t.status.errcode = s.status.errcode ∧ t.errinfo = s.errinfo)

/-- The state after reset: the registers' values of 70_reset_and_hazards.md R451, IRQ low, and the
invariants. -/
def Obligations.ResetStateIsRight : Prop :=
  readReg State.reset .id = 0x41544531 ∧ readReg State.reset .version = 0x00000001 ∧
  (∀ r, r ≠ .id → r ≠ .version → readReg State.reset r = 0) ∧ irq State.reset = false ∧
  MemoryCanonical State.reset ∧ MemoryInSpace State.reset ∧ RaceFieldsRight State.reset ∧ TableRight State.reset ∧
  ErrorFieldsRight State.reset

/-! ## Resets -/

/-- The soft reset: every register as after reset whatever else the write holds; of memory, only an
abandoned command's destination, and bytes a host has raced for, may change, and nothing when no command
runs (70_reset_and_hazards.md R452, R453). The reset input, asserted: the engine stops, with the same of
memory, DONE not set and no error recorded (R450, R453). While it is asserted register writes are ignored
and the engine does nothing; on its release every register has its reset value, and memory is as it was
(R450, R451). The inputs are the model's own (log 6), the open destination is that of log 10, and that the
registers keep their values until the release is log 11. -/
def Obligations.ResetsReturnResetValues : Prop :=
  (∀ (s : State) (v : Word), v.getLsbD 31 = true →
    (∀ r, readReg (writeReg s .ctrl v) r = readReg State.reset r) ∧
    (writeReg s .ctrl v).status = State.reset.status ∧
    OpensOnlyTheRunning s (writeReg s .ctrl v).mem ∧
    (s.status.busy = false → (writeReg s .ctrl v).mem = s.mem)) ∧
  (∀ (s : State) (rest : List Input), s.inputs = .resetPin true :: rest →
    ∃ t, step s = .next t ∧
      t = { s with
        inputs := rest
        rst := true
        status := { s.status with busy := false }
        mem := t.mem
        raced := t.raced
        freeIx := t.freeIx } ∧
      OpensOnlyTheRunning s t.mem ∧ (s.status.busy = false → t.mem = s.mem)) ∧
  (∀ (s : State) (rest : List Input), s.rst = true →
    (∀ off v, off < 4096 → off % 4 = 0 → s.inputs = .busWrite (regBase s.cfg + off) .w32 v :: rest →
      step s = .next { s with inputs := rest }) ∧
    (s.inputs = [] → step s = .next s) ∧
    (s.inputs = .engine :: rest → step s = .next { s with inputs := rest }) ∧
    (s.inputs = .resetPin false :: rest →
      ∃ t, step s = .next t ∧ t.rst = false ∧ t.mem = s.mem ∧ t.status = State.reset.status ∧
        ∀ r, readReg t r = readReg State.reset r))

/-! ## Commands as a whole -/

/-- Every command ends: it answers a next state in which the engine is idle and DONE is set, unless a
texture or list it names lies in a window with side effects (60_exceptions.md R400, R402; 20_memory.md
R99). It never faults. -/
def Obligations.EveryCommandEnds : Prop :=
  ∀ (i : Instr) (s : State),
    ((∃ t, exec i s = .next t ∧ t.status.busy = false ∧ t.status.done = true) ∨ exec i s = .refused .sideEffects) ∧
    (reachesWindow s.cfg (footprint s.snap s.mem i) = false → ∃ t, exec i s = .next t)

/-- Every error but E_BUS in the body is precise: with ERR = 0 before it, a command either leaves ERR,
ERRCODE and ERRINFO alone or changes nothing but STATUS and ERRINFO (60_exceptions.md R412, R402). A command
reads none of the three but to keep a first error (10_state.md R45, R65): with ERR = 1 before it, whatever
ERRCODE and ERRINFO hold, it answers the same but that they stay. -/
def Obligations.ErrorsArePrecise : Prop :=
  (∀ (i : Instr) (s t : State), s.port ≠ .bodyError → s.status.err = false → exec i s = .next t →
    (t.status.err = false ∧ t.status.errcode = s.status.errcode ∧ t.errinfo = s.errinfo) ∨
    ∃ e, EndedWithError s t e ∧ OnlyError s t) ∧
  (∀ (i : Instr) (s : State) (code : BitVec 8) (info : Word),
    exec i { s with status := { s.status with err := true, errcode := code }, errinfo := info } =
      mapNext (fun t => { t with status := { t.status with err := true, errcode := code }, errinfo := info })
        (exec i s)) ∧
  (∀ (i : Instr) (s : State) (code : BitVec 8) (info : Word), s.status.err = false →
    exec i { s with status := { s.status with errcode := code }, errinfo := info } =
      mapNext (fun t =>
        { t with
          status := { t.status with errcode := if t.status.err then t.status.errcode else code }
          errinfo := if t.status.err then t.errinfo else info })
        (exec i s))

/-- Under a memory port that reports an error in the body, a command that uses a texture and that would end
normally under one that reports none ends with E_BUS instead: ERRCODE 0x0B, ERRINFO 0, RES not written, and
of memory only the destination's extent may change. One that a check stops ends with that check's error as
it would. So each of the SMP commands whose slot passes its checks ends with E_BUS and no other effect
(60_exceptions.md R406 (b), R401, R402; the port's answer as an input is log 8, the free values log 9; that a
table built stays built is log 21). -/
def Obligations.BusErrorLeavesOnlyTheDestinationOpen : Prop :=
  (∀ (i : Instr) (s u : State), usedSlots i ≠ [] → s.port = .bodyError → s.status.err = false →
    exec i { s with port := .ok } = .next u →
    (u.status.err = false →
      ∃ t, exec i s = .next t ∧
        t = { u with
          port := .bodyError
          status := { u.status with err := true, errcode := 0x0B }
          errinfo := 0
          resRg := s.resRg
          resBa := s.resBa
          mem := t.mem
          scratch := t.scratch
          freeIx := t.freeIx } ∧
        (destSlot i = none → t.mem = s.mem) ∧
        ∀ d, destSlot i = some d → SlotOk s.snap d ∧ SameOutside (slotTex s.snap d).extent s.mem t.mem) ∧
    (u.status.err = true → exec i s = .next { u with port := .bodyError })) ∧
  (∀ (s : State) (a : Slot), s.port = .bodyError → SlotOk s.snap a →
    reachesWindow s.cfg [(slotTex s.snap a).extent] = false →
    (∀ wm, FailsWith (.smpNearest a wm) s ⟨.bus, 0⟩) ∧ (∀ wm, FailsWith (.smpBilinear a wm) s ⟨.bus, 0⟩) ∧
    (∀ m, FailsWith (.smpFiltered a m) s ⟨.bus, 0⟩) ∧ FailsWith (.smpGradient a) s ⟨.bus, 0⟩)

/-- What a command leaves alone, all 26 of them: the host's registers, the snapshot, ERR's neighbours
OVR and CTRL, RES unless it is an SMP or PIX command, the permutation table unless it is NOISE, and every
byte of memory outside its destination (10_state.md R48, R57, R65; 20_memory.md R91). -/
def Obligations.CommandsChangeOnlyTheirOwn : Prop :=
  ∀ (i : Instr) (s t : State), exec i s = .next t →
    t.cfg = s.cfg ∧ t.ctrl = s.ctrl ∧ t.cmd = s.cmd ∧ t.td = s.td ∧ t.param = s.param ∧ t.snap = s.snap ∧
    t.rst = s.rst ∧ t.port = s.port ∧ t.inputs = s.inputs ∧ t.raced = s.raced ∧ t.hostData = s.hostData ∧
    t.status.ovr = s.status.ovr ∧
    (writesResult i = false → t.resRg = s.resRg ∧ t.resBa = s.resBa) ∧
    ((∀ d a x y z, i ≠ .noise d a x y z) → t.perm = s.perm ∧ t.status.permReady = s.status.permReady) ∧
    (destSlot i = none → t.mem = s.mem) ∧
    (∀ d, destSlot i = some d → SameOutside (slotTex s.snap d).extent s.mem t.mem)

/-- A command reads its operands from the snapshot only: other contents of TD, PARAM, CTRL and CMD change
nothing but themselves (10_state.md R56, 70_reset_and_hazards.md R461). -/
def Obligations.CommandsReadOnlyTheSnapshot : Prop :=
  ∀ (i : Instr) (s : State) (td : Vector Desc 8) (param : Vector Word 64) (ctrl : Ctrl) (cmd : Word),
    exec i { s with td := td, param := param, ctrl := ctrl, cmd := cmd } =
      mapNext (fun t => { t with td := td, param := param, ctrl := ctrl, cmd := cmd }) (exec i s)

/-! ## Errors -/

/-- The first used slot, in the field order, that fails a check gives the error: E_TEXSIZE, then
E_TEXADDR (41_sampler.md R191, 60_exceptions.md R404 (2)). -/
def Obligations.SlotErrorsInFieldOrder : Prop :=
  ∀ (i : Instr) (s : State) (before : List Slot) (n : Slot) (after : List Slot),
    usedSlots i = before ++ n :: after → (∀ m ∈ before, SlotOk s.snap m) →
    (12 < (slotTex s.snap n).sx ∨ 12 < (slotTex s.snap n).sy → FailsWith i s ⟨.texsize, BitVec.ofNat 32 n.toNat⟩) ∧
    ((slotTex s.snap n).sx ≤ 12 → (slotTex s.snap n).sy ≤ 12 →
      2 ^ 32 < (slotTex s.snap n).base + 8 * (slotTex s.snap n).n → FailsWith i s ⟨.texaddr, BitVec.ofNat 32 n.toNat⟩)

/-- The first slot, in the order A, B, C, E, that is not compatible with the destination gives E_MISMATCH
(41_sampler.md R192, 60_exceptions.md R404 (3)). -/
def Obligations.MismatchNamesTheFirstSlot : Prop :=
  ∀ (i : Instr) (s : State) (d : Slot) (before : List Slot) (n : Slot) (after : List Slot),
    destSlot i = some d → (∀ m ∈ usedSlots i, SlotOk s.snap m) → compatSlots i = before ++ n :: after →
    (∀ m ∈ before, SameSize s.snap d m) →
    ((slotTex s.snap n).sx ≠ (slotTex s.snap d).sx ∨ (slotTex s.snap n).sy ≠ (slotTex s.snap d).sy) →
    FailsWith i s ⟨.mismatch, BitVec.ofNat 32 n.toNat⟩

/-- E_PARAM: PIX.LERP's weight, NOISE's four ranges in order, BLUR's order; E_COEF: the first matrix entry
of PARAM[16..31] out of [-127, 127], for both matrix commands (40_pixel.md R172, 42_generators.md R238,
43_filters.md R305, R279). -/
def Obligations.ParamErrorsNameTheFirst : Prop :=
  ∀ s : State,
    ((param s.snap 0 < 0 ∨ 65536 < param s.snap 0) → FailsWith .pixLerp s ⟨.param, 0⟩) ∧
    (∀ d a x y z, (∀ n ∈ [d, a], SlotOk s.snap n) →
      ((param s.snap 0 < 0 ∨ 12 < param s.snap 0) → FailsWith (.noise d a x y z) s ⟨.param, 0⟩) ∧
      (0 ≤ param s.snap 0 → param s.snap 0 ≤ 12 →
        ((param s.snap 1 < 0 ∨ 12 < param s.snap 1) → FailsWith (.noise d a x y z) s ⟨.param, 1⟩) ∧
        (0 ≤ param s.snap 1 → param s.snap 1 ≤ 12 →
          ((param s.snap 2 < 1 ∨ 16 < param s.snap 2) → FailsWith (.noise d a x y z) s ⟨.param, 2⟩) ∧
          (1 ≤ param s.snap 2 → param s.snap 2 ≤ 16 → param s.snap 3 ≤ 0 →
            FailsWith (.noise d a x y z) s ⟨.param, 3⟩)))) ∧
    (∀ d a wm, (∀ n ∈ [d, a], SlotOk s.snap n) → SameSize s.snap d a → 255 < param s.snap 2 →
      FailsWith (.blur d a wm) s ⟨.param, 2⟩) ∧
    (∀ j : Nat, 16 ≤ j → j < 32 →
      (∀ l, 16 ≤ l → l < j → -127 * 65536 ≤ param s.snap l ∧ param s.snap l ≤ 127 * 65536) →
      (param s.snap j < -127 * 65536 ∨ 127 * 65536 < param s.snap j) →
      (∀ d a p, (∀ n ∈ [d, a], SlotOk s.snap n) → SameSize s.snap d a →
        FailsWith (.colorMatrix d a p) s ⟨.coef, BitVec.ofNat 32 j⟩) ∧
      (∀ d a m, (∀ n ∈ [d, a], SlotOk s.snap n) → FailsWith (.coordMatrix d a m) s ⟨.coef, BitVec.ofNat 32 j⟩))

/-- The list checks of CELLS and LINEAR.COMBINE on PARAM: the count, the constant weight, the pointer, in
this order (42_generators.md R241, 44_combiners.md R371, 20_memory.md R97; the pointer unsigned is log
15). Then the list read: where the memory port reports an error on record `k` of the list, no earlier record
failing a check, the command ends with E_BUS and ERRINFO 0 (60_exceptions.md R404 (5), R406 (a); the port's
answer as an input is log 8, records read and checked one by one log 23). -/
def Obligations.ListParamErrors : Prop :=
  ∀ (s : State) (d : Slot), SlotOk s.snap d →
    (∀ a outer, SlotOk s.snap a →
      ((param s.snap 1 < (if outer then 2 else 1) ∨ 256 < param s.snap 1) →
        FailsWith (.cells d a outer) s ⟨.count, 1⟩) ∧
      ((if outer then 2 else 1) ≤ param s.snap 1 → param s.snap 1 ≤ 256 →
        ((paramU s.snap 0 % 8 ≠ 0 ∨ 2 ^ 32 < paramU s.snap 0 + 16 * param s.snap 1) →
          FailsWith (.cells d a outer) s ⟨.align, 0⟩) ∧
        (paramU s.snap 0 % 8 = 0 → paramU s.snap 0 + 16 * param s.snap 1 ≤ 2 ^ 32 →
          reachesWindow s.cfg [cellList s.snap] = false →
          ∀ k : Nat, s.port = .listError k → (k : Int) < param s.snap 1 →
            FailsWith (.cells d a outer) s ⟨.bus, 0⟩))) ∧
    ((param s.snap 1 < 0 ∨ 255 < param s.snap 1) → FailsWith (.linearCombine d) s ⟨.count, 1⟩) ∧
    (0 ≤ param s.snap 1 → param s.snap 1 ≤ 255 →
      ((param s.snap 2 < -127 * 65536 ∨ 127 * 65536 < param s.snap 2) →
        FailsWith (.linearCombine d) s ⟨.coef, 2⟩) ∧
      (-127 * 65536 ≤ param s.snap 2 → param s.snap 2 ≤ 127 * 65536 → 0 < param s.snap 1 →
        ((paramU s.snap 0 % 4 ≠ 0 ∨ 2 ^ 32 < paramU s.snap 0 + 24 * param s.snap 1) →
          FailsWith (.linearCombine d) s ⟨.align, 0⟩) ∧
        (paramU s.snap 0 % 4 = 0 → paramU s.snap 0 + 24 * param s.snap 1 ≤ 2 ^ 32 →
          reachesWindow s.cfg [inputList s.snap] = false →
          ∀ k : Nat, s.port = .listError k → (k : Int) < param s.snap 1 →
            (∀ j < k, firstError (recordChecks j (inputRecord s.mem (paramU s.snap 0) j)) = none) →
            FailsWith (.linearCombine d) s ⟨.bus, 0⟩)))

/-- The checks on a LINEAR.COMBINE record, in the order of 44_combiners.md R371: the first record that
fails one, and within it the first check, gives the error, with ERRINFO bit 31 set and the record's
number in bits 23:8 (60_exceptions.md R403; which bit of several is named is log 17, the pointer unsigned
log 15, a port error on a later record log 23). -/
def Obligations.RecordErrorsInOrder : Prop :=
  ∀ (s : State) (d : Slot) (k : Nat), SlotOk s.snap d → reachesWindow s.cfg [inputList s.snap] = false →
    (∀ n, s.port = .listError n → k < n) → 0 ≤ param s.snap 1 → param s.snap 1 ≤ 255 → -127 * 65536 ≤ param s.snap 2 → param s.snap 2 ≤ 127 * 65536 →
    paramU s.snap 0 % 4 = 0 → paramU s.snap 0 + 24 * param s.snap 1 ≤ 2 ^ 32 → (k : Int) < param s.snap 1 →
    (∀ j < k, firstError (recordChecks j (inputRecord s.mem (paramU s.snap 0) j)) = none) →
    let r := inputRecord s.mem (paramU s.snap 0) k
    let sx := (r.size.extractLsb' 0 4).toNat
    let sy := (r.size.extractLsb' 8 4).toNat
    let info : Nat := 2 ^ 31 + 2 ^ 8 * k
    (r.size &&& 0xFFF8F0F0 ≠ 0 → ∃ b < 32, (r.size &&& 0xFFF8F0F0).getLsbD b = true ∧
      (∀ j < b, (r.size &&& 0xFFF8F0F0).getLsbD j = false) ∧
      FailsWith (.linearCombine d) s ⟨.reserved, BitVec.ofNat 32 (info + b)⟩) ∧
    (r.size &&& 0xFFF8F0F0 = 0 → r.last ≠ 0 → ∃ b < 32, r.last.getLsbD b = true ∧
      (∀ j < b, r.last.getLsbD j = false) ∧
      FailsWith (.linearCombine d) s ⟨.reserved, BitVec.ofNat 32 (info + (32 + b))⟩) ∧
    (r.size &&& 0xFFF8F0F0 = 0 → r.last = 0 →
      ((12 < sx ∨ 12 < sy) → FailsWith (.linearCombine d) s ⟨.texsize, BitVec.ofNat 32 info⟩) ∧
      (sx ≤ 12 → sy ≤ 12 →
        (r.base.toNat % 8 ≠ 0 → FailsWith (.linearCombine d) s ⟨.align, BitVec.ofNat 32 info⟩) ∧
        (r.base.toNat % 8 = 0 →
          (2 ^ 32 < r.base.toNat + 8 * 2 ^ (sx + sy) → FailsWith (.linearCombine d) s ⟨.texaddr, BitVec.ofNat 32 info⟩) ∧
          (r.base.toNat + 8 * 2 ^ (sx + sy) ≤ 2 ^ 32 → (r.weight.toInt < -127 * 65536 ∨ 127 * 65536 < r.weight.toInt) →
            FailsWith (.linearCombine d) s ⟨.coef, BitVec.ofNat 32 info⟩))))

/-! ## Registers, bus and interrupt -/

/-- What a host write to a register leaves readable: TD_BASE bits 31:3, TD_SIZE bits 3:0 and 11:8, every
bit of PARAM, CTRL bits 1:0; a write to a read-only or reserved register does nothing (10_state.md R41,
R43, R55, R57). A write to STATUS clears DONE, ERR and OVR where it has a 1, and with ERR the whole of
ERRCODE and ERRINFO, and changes nothing else (R44). -/
def Obligations.RegisterWritesReadBack : Prop :=
  ∀ (s : State) (v : Word),
    (∀ n, readReg (writeReg s (.tdBase n) v) (.tdBase n) = v &&& 0xFFFFFFF8 ∧
      ∀ r, r ≠ .tdBase n → readReg (writeReg s (.tdBase n) v) r = readReg s r) ∧
    (∀ n, readReg (writeReg s (.tdSize n) v) (.tdSize n) = v &&& 0x00000F0F ∧
      ∀ r, r ≠ .tdSize n → readReg (writeReg s (.tdSize n) v) r = readReg s r) ∧
    (∀ k, readReg (writeReg s (.param k) v) (.param k) = v ∧
      ∀ r, r ≠ .param k → readReg (writeReg s (.param k) v) r = readReg s r) ∧
    (v.getLsbD 31 = false → readReg (writeReg s .ctrl v) .ctrl = v &&& 0x00000003 ∧
      ∀ r, r ≠ .ctrl → readReg (writeReg s .ctrl v) r = readReg s r) ∧
    (∀ r ∈ [.id, .version, .errinfo, .resRg, .resBa, .reserved], writeReg s r v = s) ∧
    readReg (writeReg s .status v) .status =
      (readReg s .status &&& ~~~(v &&& 0x0000000E) &&& (if v.getLsbD 2 then 0x000000FF else 0xFFFFFFFF)) ∧
    readReg (writeReg s .status v) .errinfo = (if v.getLsbD 2 then 0 else readReg s .errinfo) ∧
    writeReg s .status v =
      { s with status := (writeReg s .status v).status, errinfo := (writeReg s .status v).errinfo }

/-- A 32-bit host access in the register block, aligned and with the reset input released, reads or writes
the register the map of 10_state.md R41 has at that offset, and a read changes nothing; a read or write of
another width or alignment is refused (R49; log 14). -/
def Obligations.BusAccessesTheRegisterMap : Prop :=
  ∀ (s : State) (rest : List Input) (off : Nat), off < 4096 →
    (s.rst = false → off % 4 = 0 → s.inputs = .busRead (regBase s.cfg + off) .w32 :: rest →
      step s = .next { s with inputs := rest, hostData := (readReg s (regAt off)).setWidth 64 }) ∧
    (∀ v : BitVec 64, s.rst = false → off % 4 = 0 → s.inputs = .busWrite (regBase s.cfg + off) .w32 v :: rest →
      step s = .next (writeReg { s with inputs := rest } (regAt off) (v.setWidth 32))) ∧
    (∀ w, (w ≠ .w32 ∨ off % 4 ≠ 0) →
      (s.inputs = .busRead (regBase s.cfg + off) w :: rest → step s = .refused .registerAccess) ∧
      ∀ v, s.inputs = .busWrite (regBase s.cfg + off) w v :: rest → step s = .refused .registerAccess) ∧
    [0x000, 0x004, 0x008, 0x00C, 0x010, 0x014, 0x018, 0x01C].map regAt =
      [.id, .version, .ctrl, .status, .cmd, .errinfo, .resRg, .resBa] ∧
    (∀ n : Slot, regAt (0x040 + 8 * n.toNat) = .tdBase n ∧ regAt (0x044 + 8 * n.toNat) = .tdSize n) ∧
    (∀ k : BitVec 6, regAt (0x100 + 4 * k.toNat) = .param k) ∧
    (off % 4 = 0 → (0x020 ≤ off ∧ off < 0x040 ∨ 0x080 ≤ off ∧ off < 0x100 ∨ 0x200 ≤ off) → regAt off = .reserved)

/-- IRQ is the level of 60_exceptions.md R410: a command's end raises it when IE_DONE is set, its error
when IE_ERR is; clearing every source or every enable lowers it. Stated of every state: while the reset input is
asserted R450 gives IRQ no value, and that it follows the kept fields there is the model's choice (log 11). -/
def Obligations.InterruptFollowsStatus : Prop :=
  (∀ s : State, irq s = true ↔
    (s.ctrl.ieDone = true ∧ s.status.done = true) ∨ (s.ctrl.ieErr = true ∧ (s.status.err = true ∨ s.status.ovr = true))) ∧
  (∀ (i : Instr) (s t : State), exec i s = .next t → s.ctrl.ieDone = true → irq t = true) ∧
  (∀ (s : State) (e : CmdError), s.ctrl.ieErr = true → irq (raiseError s e) = true) ∧
  (∀ (s : State) (v : Word), v &&& 0xE = 0xE → irq (writeReg s .status v) = false) ∧
  (∀ (s : State) (v : Word), v &&& 0x80000003 = 0 → irq (writeReg s .ctrl v) = false)

/-! ## Memory -/

/-- A host write of memory, then a read at the same place: little-endian bytes, the value back, and no
other byte changed (20_memory.md R93, R113; how the bus decodes an access is log 25). -/
def Obligations.HostWritesLittleEndian : Prop :=
  ∀ (s : State) (addr : Nat) (w : Width) (v : BitVec 64) (rest : List Input),
    MemoryCanonical s → s.status.busy = false → inRegBlock s.cfg addr = false →
    addr + widthBytes w ≤ 2 ^ 32 → reachesWindow s.cfg [⟨addr, widthBytes w⟩] = false →
    s.inputs = .busWrite addr w v :: .busRead addr w :: rest →
    ∃ t u, step s = .next t ∧ step t = .next u ∧ t = { s with mem := t.mem, inputs := .busRead addr w :: rest } ∧
      (∀ k < widthBytes w, t.mem.read (addr + k) = v.extractLsb' (8 * k) 8) ∧
      SameOutside ⟨addr, widthBytes w⟩ s.mem t.mem ∧
      u = { t with inputs := rest, hostData := u.hostData } ∧
      u.hostData.toNat = v.toNat % 2 ^ (8 * widthBytes w)

/-- The bytes of a pixel (20_memory.md R94) at its texel's address (R95). -/
def Obligations.TexelBytes : Prop :=
  ∀ (m : Memory) (t : Tex) (x y : Nat) (p : Pixel), m.wf →
    (let at' : Nat := t.base + 8 * (y * t.w + x)
     (∀ k < 8, (texWrite m t x y p).read (at' + k) = (p.a ++ p.b ++ p.g ++ p.r : BitVec 64).extractLsb' (8 * k) 8) ∧
     SameOutside ⟨at', 8⟩ m (texWrite m t x y p) ∧
     texRead m t x y = ⟨m.read (at' + 1) ++ m.read at', m.read (at' + 3) ++ m.read (at' + 2),
       m.read (at' + 5) ++ m.read (at' + 4), m.read (at' + 7) ++ m.read (at' + 6)⟩)

/-- A host access between a command's acceptance and its end (20_memory.md R108, 70_reset_and_hazards.md
R462). It races when it meets a byte the command reads or writes: none of a command whose slots fail a check,
the texel of SMP.NEAREST, row 0 for SMP.GRADIENT, every used texture whole where each pixel of it is read or
written, nothing but used textures and the list otherwise. One that does not race acts as on an idle engine.
A racing read returns any value of its width and changes nothing. A racing write changes no byte but its own,
and keeps in `raced` those the command reads or writes, which at the command's end take any value with its
destination or its sample's result; STATUS and the other registers are as without the race. How the model
writes 'any value' is log 12. -/
def Obligations.RacingAccessesTakeAnyValue : Prop :=
  (∀ (s : State) (addr : Nat) (w : Width) (rest : List Input),
    MemoryCanonical s → inRegBlock s.cfg addr = false → addr + widthBytes w ≤ 2 ^ 32 →
    reachesWindow s.cfg [⟨addr, widthBytes w⟩] = false →
    let e : Extent := ⟨addr, widthBytes w⟩
    (s.inputs = .busRead addr w :: rest →
      ∃ t, step s = .next t ∧ t = { s with inputs := rest, hostData := t.hostData, freeIx := t.freeIx } ∧
        t.hostData.toNat < 2 ^ (8 * widthBytes w) ∧
        (races s e = false → t.hostData.toNat = memRead s.mem addr (widthBytes w))) ∧
    (∀ v : BitVec 64, s.inputs = .busWrite addr w v :: rest →
      ∃ t, step s = .next t ∧ t = { s with inputs := rest, mem := t.mem, raced := t.raced, freeIx := t.freeIx } ∧
        SameOutside e s.mem t.mem ∧
        (races s e = false → t.raced = s.raced ∧
          ∀ k < widthBytes w, t.mem.read (addr + k) = v.extractLsb' (8 * k) 8) ∧
        (races s e = true →
          (∀ a, a ∈ t.raced ↔ a ∈ s.raced ∨ e.has a ∧ races s ⟨a, 1⟩ = true) ∧
          ∀ a, races s ⟨a, 1⟩ = true → t.mem.read a = s.mem.read a))) ∧
  (∀ (s : State) (i : Instr) (e : Extent), decode s.snap.cmd = .command i →
    (s.status.busy = false → races s e = false) ∧
    ((∃ n ∈ usedSlots i, ¬ SlotOk s.snap n) → races s e = false) ∧
    (races s e = true → ∃ f ∈ footprint s.snap s.mem i, e.meets f = true) ∧
    (s.status.busy = true → (∀ n ∈ usedSlots i, SlotOk s.snap n) →
      (∀ a wm, i = .smpNearest a wm →
        let A := slotTex s.snap a
        (races s e = true ↔ e.meets ⟨A.addr (texelOf (onAxis (param s.snap 0) A.sx wm.clampU) A.sx)
          (texelOf (onAxis (param s.snap 1) A.sy wm.clampV) A.sy), 8⟩ = true)) ∧
      (∀ a, i = .smpGradient a → races s e = true →
        e.meets ⟨(slotTex s.snap a).base, 8 * (slotTex s.snap a).w⟩ = true) ∧
      (∀ d a normals, i = .derive d a normals → SameSize s.snap d a →
        (races s e = true ↔
          (e.meets (slotTex s.snap d).extent = true ∨ e.meets (slotTex s.snap a).extent = true))))) ∧
  (∀ (s u : State) (i : Instr), s.rst = false → s.status.busy = true → decode s.snap.cmd = .command i →
    s.inputs = [] → s.raced ≠ [] → exec i s = .next u → ∃ t, step s = .next t ∧ SettledFrom i s u t)

/-! ## Pixels and the commands that return one -/

/-- 40_pixel.md R161: `MulIntens` is the round-half-up of a * b / 65535, 65535 is its identity, 0 absorbs,
it commutes, and `PixMulC` is it on every channel. -/
def Obligations.MulIntensRoundsHalfUp : Prop :=
  (∀ a b : U16, (mulIntens a b).toNat = (2 * (a.toNat * b.toNat) + 65535) / 131070 ∧
    (mulIntens a b).toNat = (a.toNat * b.toNat + 0x8000 + (a.toNat * b.toNat + 0x8000) / 2 ^ 16) / 2 ^ 16 ∧
    mulIntens 65535 b = b ∧ mulIntens 0 b = 0 ∧ mulIntens a b = mulIntens b a) ∧
  ∀ (p q : Pixel), ∀ ch ∈ channels, ch (pixMulC p q) = mulIntens (ch p) (ch q)

/-- NOP completes at once and changes STATUS only (49_control.md R395). -/
def Obligations.NopCompletes : Prop :=
  ∀ s : State, ∃ t, exec .nop s = .next t ∧ EndedNormally s t ∧ t = { s with status := t.status }

/-- PIX.INIT8 and PIX.INIT32 complete with the premultiplied pixel of 40_pixel.md R166. -/
def Obligations.PixInitPremultiplies : Prop :=
  ∀ s : State,
    (∃ t, exec .pixInit8 s = .next t ∧ EndedNormally s t ∧ OnlyResult s t ∧
      let w := paramU s.snap 0
      let a := w / 2 ^ 24
      (resPixel t).r.toNat = roundMul (257 * (w % 2 ^ 8)) (257 * a) ∧
      (resPixel t).g.toNat = roundMul (257 * (w / 2 ^ 8 % 2 ^ 8)) (257 * a) ∧
      (resPixel t).b.toNat = roundMul (257 * (w / 2 ^ 16 % 2 ^ 8)) (257 * a) ∧
      (resPixel t).a.toNat = 257 * a) ∧
    (∃ t, exec .pixInit32 s = .next t ∧ EndedNormally s t ∧ OnlyResult s t ∧
      let w := paramU s.snap 0
      let a := w / 2 ^ 24
      (resPixel t).r.toNat = roundMul (257 * (w / 2 ^ 16 % 2 ^ 8)) (257 * a) ∧
      (resPixel t).g.toNat = roundMul (257 * (w / 2 ^ 8 % 2 ^ 8)) (257 * a) ∧
      (resPixel t).b.toNat = roundMul (257 * (w % 2 ^ 8)) (257 * a) ∧
      (resPixel t).a.toNat = 257 * a)

/-- 40_pixel.md R167: un-premultiplying a pixel of `PixInit8` gives back each 8-bit input exactly; alpha 0
gives 0 in every channel. -/
def Obligations.UnpremultiplyGivesTheInput : Prop :=
  ∀ r g b a : BitVec 8,
    (a ≠ 0 → ∀ cv ∈ [(Pixel.r, r), (Pixel.g, g), (Pixel.b, b)],
      (2 * ((cv.1 (pixInit8 r g b a)).toNat * 255) + (pixInit8 r g b a).a.toNat) / (2 * (pixInit8 r g b a).a.toNat)
        = cv.2.toNat) ∧
    (a = 0 → ∀ ch ∈ channels, ch (pixInit8 r g b a) = 0)

/-- PIX.LERP completes for t in 0..65536, each channel by 40_pixel.md R162: the floor of the weighted
step, p at 0, q at 65536, and always between the two. -/
def Obligations.PixLerpInterpolates : Prop :=
  ∀ s : State, 0 ≤ param s.snap 0 → param s.snap 0 ≤ 65536 →
    ∃ t, exec .pixLerp s = .next t ∧ EndedNormally s t ∧ OnlyResult s t ∧ ∀ ch ∈ channels,
      let p : Int := (ch (pixPair s.snap 1)).toNat
      let q : Int := (ch (pixPair s.snap 3)).toNat
      let c : Int := (ch (resPixel t)).toNat
      c = p + param s.snap 0 * (q - p) / 65536 ∧ min p q ≤ c ∧ c ≤ max p q ∧
      (param s.snap 0 = 0 → c = p) ∧ (param s.snap 0 = 65536 → c = q)

/-- PIX.ADD, PIX.MULC, PIX.OVER and PIX.SCREEN complete with each channel by 40_pixel.md R163, R161, R164
and R165, alpha like the others. -/
def Obligations.PixPairCommandsCompose : Prop :=
  ∀ s : State,
    let d := pixPair s.snap 1
    let q := pixPair s.snap 3
    (∃ t, exec .pixAdd s = .next t ∧ EndedNormally s t ∧ OnlyResult s t ∧ ∀ ch ∈ channels,
      (ch (resPixel t)).toNat = min ((ch d).toNat + (ch q).toNat) 65535) ∧
    (∃ t, exec .pixMulc s = .next t ∧ EndedNormally s t ∧ OnlyResult s t ∧ ∀ ch ∈ channels,
      (ch (resPixel t)).toNat = roundMul (ch d).toNat (ch q).toNat) ∧
    (∃ t, exec .pixOver s = .next t ∧ EndedNormally s t ∧ OnlyResult s t ∧ ∀ ch ∈ channels,
      (ch (resPixel t)).toNat = min (roundMul (65535 - q.a.toNat) (ch d).toNat + (ch q).toNat) 65535) ∧
    (∃ t, exec .pixScreen s = .next t ∧ EndedNormally s t ∧ OnlyResult s t ∧ ∀ ch ∈ channels,
      (ch (resPixel t)).toNat = min ((ch d).toNat + roundMul (ch q).toNat (65535 - (ch d).toNat)) 65535)

/-! ## Sampling -/

/-- SMP.NEAREST completes with the texel its wrapped or clamped coordinate lies in (41_sampler.md R193,
R194, R200). -/
def Obligations.NearestReturnsTheTexel : Prop :=
  ∀ (s : State) (a : Slot) (wm : Wrap), Ready (.smpNearest a wm) s →
    let A := slotTex s.snap a
    ∃ t, exec (.smpNearest a wm) s = .next t ∧ CompletedPixel s t
      (texRead s.mem A (texelOf (onAxis (param s.snap 0) A.sx wm.clampU) A.sx)
        (texelOf (onAxis (param s.snap 1) A.sy wm.clampV) A.sy))

/-- SMP.BILINEAR completes with the four texels around the coordinate, less the half-texel bias, mixed
along x and then along y; the neighbours wrap (41_sampler.md R195, R201). -/
def Obligations.BilinearMixesFourTexels : Prop :=
  ∀ (s : State) (a : Slot) (wm : Wrap), Ready (.smpBilinear a wm) s →
    let A := slotTex s.snap a
    let X := (onAxis (param s.snap 0) A.sx wm.clampU - 2 ^ (23 - A.sx)) % 2 ^ 24
    let Y := (onAxis (param s.snap 1) A.sy wm.clampV - 2 ^ (23 - A.sy)) % 2 ^ 24
    let T := fun i j => texRead s.mem A ((texelOf X A.sx + i) % A.w) ((texelOf Y A.sy + j) % A.h)
    ∃ t, exec (.smpBilinear a wm) s = .next t ∧ CompletedPixel s t
      (pixLerp (weightOf Y A.sy) (pixLerp (weightOf X A.sx) (T 0 0) (T 1 0)) (pixLerp (weightOf X A.sx) (T 0 1) (T 1 1)))

/-- SMP.FILTERED completes as SMP.BILINEAR when M[2] is set and as SMP.NEAREST when not, with the same
wrap bits (41_sampler.md R196, R202). -/
def Obligations.FilteredChoosesTheFilter : Prop :=
  ∀ (s : State) (a : Slot) (m : Mode), Ready (.smpFiltered a m) s →
    ∃ t, exec (.smpFiltered a m) s = .next t ∧ EndedNormally s t ∧ OnlyResult s t ∧
      exec (if m.bilinear then .smpBilinear a m.wrap else .smpNearest a m.wrap) s = .next t

/-- SMP.GRADIENT completes with row 0 only, unbiased, the upper neighbour clamped: below 0 the first
texel, from 2^24 on the last under both values of GRAD_INSET (41_sampler.md R197, R203). -/
def Obligations.GradientReadsTheRamp : Prop :=
  ∀ (s : State) (a : Slot), Ready (.smpGradient a) s →
    let A := slotTex s.snap a
    let x := param s.snap 0
    let ramp := fun c : Int => pixLerp (weightOf c A.sx) (texRead s.mem A (texelOf c A.sx) 0)
      (texRead s.mem A (min (texelOf c A.sx + 1) (A.w - 1)) 0)
    (x ≤ 0 → ∃ t, exec (.smpGradient a) s = .next t ∧ CompletedPixel s t (texRead s.mem A 0 0)) ∧
    (2 ^ 24 ≤ x → ∃ t, exec (.smpGradient a) s = .next t ∧ CompletedPixel s t (texRead s.mem A (A.w - 1) 0)) ∧
    (0 ≤ x → x < 2 ^ 24 → s.cfg.gradInset = .ulp →
      ∃ t, exec (.smpGradient a) s = .next t ∧ CompletedPixel s t (ramp x)) ∧
    (0 ≤ x → x < 2 ^ 24 → s.cfg.gradInset = .scale →
      ∃ t, exec (.smpGradient a) s = .next t ∧ CompletedPixel s t (ramp (x - x / 2 ^ A.sx)))

/-- 41_sampler.md R205: texel centres return their texel in every mode; a multiple of 2^24 on a wrapped
axis changes nothing; after TEX.COPY with disjoint extents the destination equals the source. -/
def Obligations.SamplerProperties : Prop :=
  (∀ (m : Memory) (t : Tex) (wm : Wrap) (i j : Nat), t.sizeOk = true → InTex t i j →
    let x : Int := ((2 * i + 1) * t.minx : Nat)
    let y : Int := ((2 * j + 1) * t.miny : Nat)
    sampleNearest m t x y wm = texRead m t i j ∧
    fraction (biased x t.minx wm.clampU) t.sx = 0 ∧ fraction (biased y t.miny wm.clampV) t.sy = 0 ∧
    sampleBilinear m t x y wm = sampleNearest m t x y wm) ∧
  (∀ (m : Memory) (t : Tex) (x y k : Int) (wm : Wrap),
    (wm.clampU = false → sampleNearest m t (x + k * 2 ^ 24) y wm = sampleNearest m t x y wm ∧
      sampleBilinear m t (x + k * 2 ^ 24) y wm = sampleBilinear m t x y wm) ∧
    (wm.clampV = false → sampleNearest m t x (y + k * 2 ^ 24) wm = sampleNearest m t x y wm ∧
      sampleBilinear m t x (y + k * 2 ^ 24) wm = sampleBilinear m t x y wm)) ∧
  (∀ (s : State) (d a : Slot), MemoryCanonical s → Ready (.texCopy d a) s → Apart s.snap d a →
    ∃ t, exec (.texCopy d a) s = .next t ∧ ∀ x y, InTex (slotTex s.snap d) x y →
      texRead t.mem (slotTex s.snap d) x y = texRead t.mem (slotTex s.snap a) x y)

/-- TEX.COPY completes: a source apart is copied, D = A leaves every byte, and a destination one texel
past its source repeats the source's first texel (41_sampler.md R204, 20_memory.md R105). -/
def Obligations.TexCopyCopiesInOrder : Prop :=
  ∀ (s : State) (d a : Slot), MemoryCanonical s → Ready (.texCopy d a) s →
    let D := slotTex s.snap d
    let A := slotTex s.snap a
    ∃ t, exec (.texCopy d a) s = .next t ∧ CompletedTexture s t D ∧
      (Apart s.snap d a → ∀ x y, InTex D x y → texRead t.mem D x y = texRead s.mem A x y) ∧
      (D.base = A.base → SameEverywhere s.mem t.mem) ∧
      (D.base = A.base + 8 → ∀ x y, InTex D x y → texRead t.mem D x y = texRead s.mem A 0 0)

/-! ## Generators -/

/-- The permutation table is the indices 0..4095 in the order of (key, index), for every seed and tap
mask (42_generators.md R230). -/
def Obligations.NoiseTableOrdersKeys : Prop :=
  ∀ seed taps : Word,
    (permTable seed taps).length = 4096 ∧ (permTable seed taps).Nodup ∧
    (permTable seed taps).Pairwise fun i j =>
      lfsrKey seed taps i.toNat < lfsrKey seed taps j.toNat ∨
      (lfsrKey seed taps i.toNat = lfsrKey seed taps j.toNat ∧ i < j)

/-- 42_generators.md R232, R233 and R234: the lattice values' formula and range; the fade curve's formula,
values and monotonicity; the basis function's formula, one lattice value of a cell or the interpolation of
four, and that it tiles: it repeats every 2^f cells of an axis whose mask is 2^f - 1, on each axis by
itself. -/
def Obligations.NoiseLatticeFadesAndTiles : Prop :=
  (∀ (pt : Array (BitVec 12)) (i j z : Nat),
    latHash pt i j z = permEntry pt ((permEntry pt i + j + z) % 4096) ∧
    lat pt i j z = ((latHash pt i j z : Int) - 2048) * 32 ∧ -65536 ≤ lat pt i j z ∧ lat pt i j z ≤ 65504) ∧
  (∀ t : Int, 0 ≤ t → t ≤ 65535 →
    smooth t = (t ^ 3 * (10 * 2 ^ 32 - 15 * 2 ^ 16 * t + 6 * t ^ 2)) / 2 ^ 64 ∧
    ∀ u : Int, t ≤ u → u ≤ 65535 → smooth t ≤ smooth u) ∧
  smooth 0 = 0 ∧ smooth 16384 = 6784 ∧ smooth 32768 = 32768 ∧ smooth 49152 = 58752 ∧ smooth 65535 = 65535 ∧
  (∀ (pt : Array (BitVec 12)) (px py : Word) (mx my z : Nat),
    let ix := px.toNat / 2 ^ 16 &&& mx &&& 4095
    let iy := py.toNat / 2 ^ 16 &&& my &&& 4095
    let ix1 := (ix + 1) &&& mx &&& 4095
    let iy1 := (iy + 1) &&& my &&& 4095
    let u := smooth (px.toNat % 2 ^ 16 : Nat)
    let v := smooth (py.toNat % 2 ^ 16 : Nat)
    let mix := fun t a b : Int => a + t * (b - a) / 2 ^ 16
    basis pt px py mx my z false = lat pt ix iy z ∧
    basis pt px py mx my z true =
      mix v (mix u (lat pt ix iy z) (lat pt ix1 iy z)) (mix u (lat pt ix iy1 z) (lat pt ix1 iy1 z))) ∧
  (∀ (pt : Array (BitVec 12)) (px py : Word) (f mask z : Nat) (band : Bool),
    basis pt (px + BitVec.ofNat 32 (2 ^ f * 2 ^ 16)) py (2 ^ f - 1) mask z band =
      basis pt px py (2 ^ f - 1) mask z band ∧
    basis pt px (py + BitVec.ofNat 32 (2 ^ f * 2 ^ 16)) mask (2 ^ f - 1) z band =
      basis pt px py mask (2 ^ f - 1) z band)

/-- The octave loop is the sum of 42_generators.md R237: octave i at 2^i times the position, masks of i
more bits, and the amplitude of R235. -/
def Obligations.NoiseSumsOctaves : Prop :=
  ∀ (pt : Array (BitVec 12)) (z fx fy n : Nat) (f s0 : Int) (abs band : Bool) (px py : Word),
    octaves pt z f abs band n px py (2 ^ fx - 1) (2 ^ fy - 1) s0 0 =
      ((List.range n).map fun i =>
        let nv := basis pt (px * BitVec.ofNat 32 (2 ^ i)) (py * BitVec.ofNat 32 (2 ^ i))
          (2 ^ (fx + i) - 1) (2 ^ (fy + i) - 1) z band
        (if abs then max nv (-nv) else nv) * amplitude s0 f i).sum

/-- NOISE completes: it builds the table if it is not in use and keeps it otherwise, and each pixel is the
gradient at the index of R237, from the first amplitude of R235, the position of R236 and the basis function
of R234, whose formulas `octaveIndex` writes out (42_generators.md R239, 10_state.md R60). -/
def Obligations.NoisePaintsItsGradient : Prop :=
  ∀ (s : State) (d a : Slot) (abs normalize band : Bool), MemoryCanonical s →
    Ready (.noise d a abs normalize band) s →
    0 ≤ param s.snap 0 → param s.snap 0 ≤ 12 → 0 ≤ param s.snap 1 → param s.snap 1 ≤ 12 →
    1 ≤ param s.snap 2 → param s.snap 2 ≤ 16 → 0 < param s.snap 3 →
    let D := slotTex s.snap d
    ∃ t, exec (.noise d a abs normalize band) s = .next t ∧
      t = { s with
        status := { s.status with busy := false, done := true, permReady := true }
        perm := if s.status.permReady then s.perm else (permTable s.cfg.permSeed s.cfg.permTaps).toArray
        mem := t.mem } ∧
      SameOutside D.extent s.mem t.mem ∧
      (Apart s.snap d a → ∀ x y, InTex D x y → texRead t.mem D x y =
        sampleGradient s.cfg.gradInset s.mem (slotTex s.snap a) (octaveIndex s.snap t.perm D abs normalize band x y))

/-- CELLS completes: each pixel by its nearest centre, the lowest-numbered of equals, and in outer mode by
the nearest of the others too, whatever the search (42_generators.md R242 to R246; the pointer unsigned is
log 15, the scratch free log 4). -/
def Obligations.CellsUsesTheNearestCentres : Prop :=
  ∀ (s : State) (d a : Slot) (outer : Bool), MemoryCanonical s → Ready (.cells d a outer) s →
    (if outer then 2 else 1) ≤ param s.snap 1 → param s.snap 1 ≤ 256 →
    paramU s.snap 0 % 8 = 0 → paramU s.snap 0 + 16 * param s.snap 1 ≤ 2 ^ 32 →
    let D := slotTex s.snap d
    let A := slotTex s.snap a
    let centre' := fun k => cellRecord s.mem (paramU s.snap 0) k
    ∃ t, exec (.cells d a outer) s = .next t ∧ CompletedWithScratch s t D ∧
      (Apart s.snap d a → ∀ x y, InTex D x y →
        let q := fun k => dist2 (cellCoord D.sx x) (cellCoord D.sy y) (centre' k)
        let dist : Nat → Int := fun k => Nat.sqrt (q k * 2 ^ 20)
        ∀ k : Nat, (k : Int) < param s.snap 1 → (∀ j : Nat, (j : Int) < param s.snap 1 → q k ≤ q j) → (∀ j < k, q k < q j) →
          (outer = false → texRead t.mem D x y =
            pixMulC (sampleGradient s.cfg.gradInset s.mem A (min (max (dist k * param s.snap 2 / 2 ^ 16) 0) (2 ^ 24)))
              (centre' k).color) ∧
          (outer = true → ∀ l : Nat, l ≠ k → (l : Int) < param s.snap 1 →
            (∀ j : Nat, (j : Int) < param s.snap 1 → j ≠ k → q l ≤ q j) →
            texRead t.mem D x y = sampleGradient s.cfg.gradInset s.mem A
              (if dist k + dist l = 0 then 0 else dist k * 2 ^ 24 / (dist k + dist l))))

/-- GLOWRECT completes: the background, with the gradient composited over it where a pixel of the box has
a glow distance below 1; a skipped transform leaves the background. The box, the walk's start and steps and
the glow distance are written out in Safety.lean (42_generators.md R248 to R252). -/
def Obligations.GlowrectCompositesOverTheBackground : Prop :=
  ∀ (s : State) (d a b : Slot), MemoryCanonical s → Ready (.glowrect d a b) s →
    let D := slotTex s.snap d
    let A := slotTex s.snap a
    let k := s.snap
    let lox := glowLow (param k 0) (param k 2) (param k 4)
    let hix := glowHigh (param k 0) (param k 2) (param k 4)
    let loy := glowLow (param k 1) (param k 3) (param k 5)
    let hiy := glowHigh (param k 1) (param k 3) (param k 5)
    ∃ t, exec (.glowrect d a b) s = .next t ∧ CompletedTexture s t D ∧
      (ApartOrSame k d a → Apart k d b → ∀ x y, InTex D x y →
        let u := walkU k D lox loy x y
        let v := walkV k D lox loy x y
        let drawn := InBox D.sx lox hix x ∧ InBox D.sy loy hiy y ∧ Draws k D ∧
          -65536 < u ∧ u < 65536 ∧ -65536 < v ∧ v < 65536 ∧ glowDistance k u v < 65536
        (drawn → texRead t.mem D x y =
          pixOver (texRead s.mem A x y) (sampleGradient s.cfg.gradInset s.mem (slotTex k b) (glowDistance k u v * 2 ^ 8))) ∧
        (¬ drawn → texRead t.mem D x y = texRead s.mem A x y))

/-! ## Filters -/

/-- COLOR.MATRIX completes with each channel the exact sum of its row, rounded once half up and clamped;
with PREMULT r, g and b are clamped to the new alpha (43_filters.md R280). -/
def Obligations.ColorMatrixMixesChannels : Prop :=
  ∀ (s : State) (d a : Slot) (premult : Bool), MemoryCanonical s → Ready (.colorMatrix d a premult) s → CoefsOk s.snap →
    let D := slotTex s.snap d
    ∃ t, exec (.colorMatrix d a premult) s = .next t ∧ CompletedTexture s t D ∧
      (ApartOrSame s.snap d a → ∀ x y, InTex D x y →
        let p := texRead s.mem (slotTex s.snap a) x y
        let q := texRead t.mem D x y
        let row := fun c : Nat =>
          (param s.snap (16 + 4 * c) * p.r.toNat + param s.snap (17 + 4 * c) * p.g.toNat
            + param s.snap (18 + 4 * c) * p.b.toNat + param s.snap (19 + 4 * c) * p.a.toNat + 32768) / 65536
        let top : Int := if premult then q.a.toNat else 65535
        (q.r.toNat : Int) = min (max (row 0) 0) top ∧ (q.g.toNat : Int) = min (max (row 1) 0) top ∧
        (q.b.toNat : Int) = min (max (row 2) 0) top ∧ (q.a.toNat : Int) = min (max (row 3) 0) 65535)

/-- COORD.MATRIX completes with each pixel the sample at the transformed coordinate, its accumulators
stepped and wrapped as 43_filters.md R285 walks them. -/
def Obligations.CoordMatrixWalksTheSource : Prop :=
  ∀ (s : State) (d a : Slot) (m : Mode), MemoryCanonical s → Ready (.coordMatrix d a m) s → CoefsOk s.snap →
    let D := slotTex s.snap d
    let du := fun r : Nat => param s.snap (16 + 4 * r) * 2 ^ (24 - D.sx) / 2 ^ 16
    let dv := fun r : Nat => param s.snap (17 + 4 * r) * 2 ^ (24 - D.sy) / 2 ^ 16
    ∃ (t : State) (u : Nat → Nat → Nat → Int), exec (.coordMatrix d a m) s = .next t ∧ CompletedTexture s t D ∧
      (∀ r < 2, u r 0 0 = wrap32 (param s.snap (19 + 4 * r) * 2 ^ 8 + (du r + dv r) / 2) ∧
        (∀ y, u r 0 (y + 1) = wrap32 (u r 0 y + dv r)) ∧ ∀ x y, u r (x + 1) y = wrap32 (u r x y + du r)) ∧
      (Apart s.snap d a → ∀ x y, InTex D x y →
        texRead t.mem D x y = sampleFiltered s.mem (slotTex s.snap a) (u 0 x y) (u 1 x y) m)

/-- COLOR.REMAP completes: a transparent pixel passes through; an opaque one has the three maps' sums; the
rest is un-premultiplied first and premultiplied again. Alpha is kept (43_filters.md R289, R290). -/
def Obligations.ColorRemapMapsEachChannel : Prop :=
  ∀ (s : State) (d a b c e : Slot), MemoryCanonical s → Ready (.colorRemap d a b c e) s →
    let D := slotTex s.snap d
    ∃ t, exec (.colorRemap d a b c e) s = .next t ∧ CompletedTexture s t D ∧
      (ApartOrSame s.snap d a → Apart s.snap d b → Apart s.snap d c → Apart s.snap d e → ∀ x y, InTex D x y →
        let p := texRead s.mem (slotTex s.snap a) x y
        let q := texRead t.mem D x y
        let al : Int := p.a.toNat
        let flat := fun ch : U16 => if al = 65535 then (ch.toNat : Int) else (min (ch.toNat : Int) al * 65535 + al / 2) / al
        let index := fun ch : U16 => flat ch * 2 ^ 8 + (flat ch + 128) / 2 ^ 8
        let qr := sampleGradient s.cfg.gradInset s.mem (slotTex s.snap b) (index p.r)
        let qg := sampleGradient s.cfg.gradInset s.mem (slotTex s.snap c) (index p.g)
        let qb := sampleGradient s.cfg.gradInset s.mem (slotTex s.snap e) (index p.b)
        (p.a = 0 → q = p) ∧
        (p.a ≠ 0 → q.a = p.a ∧ ∀ ch ∈ colors,
          let sum := min ((ch qr).toNat + (ch qg).toNat + (ch qb).toNat) 65535
          (ch q).toNat = if p.a = 65535 then sum else roundMul sum p.a.toNat))

/-- COORD.REMAP completes with each pixel the sample at its centre displaced by the field's red and green,
the field read before its pixel is written (43_filters.md R295). -/
def Obligations.CoordRemapDisplacesTheCentre : Prop :=
  ∀ (s : State) (d a b : Slot) (m : Mode), MemoryCanonical s → Ready (.coordRemap d a b m) s →
    let D := slotTex s.snap d
    ∃ t, exec (.coordRemap d a b m) s = .next t ∧ CompletedTexture s t D ∧
      (Apart s.snap d a → ApartOrSame s.snap d b → ∀ x y, InTex D x y →
        let q := texRead s.mem (slotTex s.snap b) x y
        texRead t.mem D x y = sampleFiltered s.mem (slotTex s.snap a)
          (wrap32 ((2 * x + 1) * 2 ^ (23 - D.sx) + param s.snap 0 * ((q.r.toNat : Int) - 32768) / 2 ^ 7))
          (wrap32 ((2 * y + 1) * 2 ^ (23 - D.sy) + param s.snap 1 * ((q.g.toNat : Int) - 32768) / 2 ^ 7)) m)

/-- DERIVE completes with the central differences of the red channel on the torus, as a gradient pixel or
as a unit normal (43_filters.md R300). -/
def Obligations.DeriveTakesCentralDifferences : Prop :=
  ∀ (s : State) (d a : Slot) (normals : Bool), MemoryCanonical s → Ready (.derive d a normals) s →
    let D := slotTex s.snap d
    let A := slotTex s.snap a
    let st := param s.snap 0
    ∃ t, exec (.derive d a normals) s = .next t ∧ CompletedTexture s t D ∧
      (Apart s.snap d a → ∀ x y, InTex D x y →
        let red := fun i j : Int => ((texRead s.mem A (i % D.w).toNat (j % D.h).toNat).r.toNat : Int)
        let dx := red (x + 1) y - red (x - 1) y
        let dy := red x (y + 1) - red x (y - 1)
        let q := texRead t.mem D x y
        let clip := fun v : Int => min (max v 0) 65535
        (normals = false →
          (q.r.toNat : Int) = clip (32768 + dx * st / 262140) ∧ (q.g.toNat : Int) = clip (32768 + dy * st / 262140) ∧
          q.b = 0 ∧ q.a = 65535) ∧
        (normals = true →
          let n : Int := Nat.sqrt ((dx * st / 131070) ^ 2 + (dy * st / 131070) ^ 2 + 2 ^ 32).toNat
          (q.r.toNat : Int) = clip (32768 + -(dx * st / 131070) * 32768 / n) ∧
          (q.g.toNat : Int) = clip (32768 + -(dy * st / 131070) * 32768 / n) ∧
          (q.b.toNat : Int) = clip (32768 + 2 ^ 31 / n) ∧ q.a = 65535))

/-- One output of a blur line is the exact weighted sum of 43_filters.md R306 over its window, rounded
once, and never passes 65535. -/
def Obligations.BlurWindowIsTheWeightedSum : Prop :=
  ∀ (buf : Array Pixel) (len s x : Nat) (clampm : Bool), 0 < len → 32 < s → x < len →
    ∀ ch ∈ channels,
      let tap := fun i : Int => ((ch (buf.getD (if clampm then (min (max i 0) (len - 1)).toNat else (i % len).toNat)
        default)).toNat : Int)
      let off : Int := (s + 32) / 64
      let total := (s : Int)
        + ((List.range (2 * ((s + 32) / 64) - 1)).map fun j => 64 * tap (x + j - (off - 1))).sum
        + ((s - 32) % 64 : Nat) * (tap (x - off) + tap (x + off))
      ((ch ((blur1D buf len s clampm).getD x default)).toNat : Int) = total / (2 * s) ∧ total / (2 * s) ≤ 65535

/-- BLUR completes: a copy when the order or both widths are too small; else rows, then columns, each line
read before it is written, so that in place and apart give the same pixels (43_filters.md R305, R307). -/
def Obligations.BlurIsSeparableInPlaceOrApart : Prop :=
  ∀ (s : State) (d a : Slot) (wm : Wrap), MemoryCanonical s → Ready (.blur d a wm) s → param s.snap 2 ≤ 255 →
    let D := slotTex s.snap d
    let A := slotTex s.snap a
    let spx := (min (max (param s.snap 0) 0) 65536 * 2 ^ (5 + D.sx) / 2 ^ 16).toNat
    let spy := (min (max (param s.snap 1) 0) 65536 * 2 ^ (5 + D.sy) / 2 ^ 16).toNat
    ∃ t, exec (.blur d a wm) s = .next t ∧ CompletedWithScratch s t D ∧
      (ApartOrSame s.snap d a → ∀ x y, InTex D x y →
        texRead t.mem D x y =
          if param s.snap 2 ≤ 0 then texRead s.mem A x y
          else blurredBoth s.mem A spx spy (param s.snap 2).toNat wm.clampU wm.clampV x y)

/-! ## Combiners -/

/-- TERNARY completes: by the control's red, the lerp of the two inputs, or with SELECT one of them; each
pixel is read before it is written (44_combiners.md R330). -/
def Obligations.TernaryMixesOrSelects : Prop :=
  ∀ (s : State) (d a b c : Slot) (select : Bool), MemoryCanonical s → Ready (.ternary d a b c select) s →
    let D := slotTex s.snap d
    ∃ t, exec (.ternary d a b c select) s = .next t ∧ CompletedTexture s t D ∧
      (ApartOrSame s.snap d a → ApartOrSame s.snap d b → ApartOrSame s.snap d c → ∀ x y, InTex D x y →
        let p1 := texRead s.mem (slotTex s.snap a) x y
        let p2 := texRead s.mem (slotTex s.snap b) x y
        let k := (texRead s.mem (slotTex s.snap c) x y).r.toNat
        let q := texRead t.mem D x y
        (select = true → q = if 32768 ≤ k then p2 else p1) ∧
        (select = false → ∀ ch ∈ channels,
          (ch q).toNat = roundMul (65535 - k) (ch p1).toNat + roundMul k (ch p2).toNat))

/-- The twelve blend modes, channel by channel (44_combiners.md R339 to R351). -/
def Obligations.BlendModesByChannel : Prop :=
  ∀ d s : Pixel,
    let ta := min (d.a.toNat + roundMul s.a.toNat (65535 - d.a.toNat)) 65535
    let clip := fun v : Int => min (max v 0) 65535
    (∀ ch ∈ channels,
      let dc := (ch d).toNat
      let sc := (ch s).toNat
      (ch (blend .add d s)).toNat = min (dc + sc) 65535 ∧ (ch (blend .sub d s)).toNat = dc - sc ∧
      (ch (blend .mulc d s)).toNat = roundMul dc sc ∧ (ch (blend .min d s)).toNat = min dc sc ∧
      (ch (blend .max d s)).toNat = max dc sc ∧
      (ch (blend .over d s)).toNat = min (roundMul (65535 - s.a.toNat) dc + sc) 65535 ∧
      (ch (blend .screen d s)).toNat = min (dc + roundMul sc (65535 - dc)) 65535) ∧
    (∀ ch ∈ colors,
      let dc := (ch d).toNat
      let sc := (ch s).toNat
      ch (blend .setalpha d s) = ch d ∧ (ch (blend .prealpha d s)).toNat = roundMul dc s.r.toNat ∧
      (ch (blend .multiply d s)).toNat =
        min (roundMul (65535 - s.a.toNat) dc + roundMul (65535 - d.a.toNat) sc + roundMul sc dc) 65535 ∧
      ((ch (blend .darken d s)).toNat : Int) =
        clip ((dc : Int) + sc - max (roundMul sc d.a.toNat) (roundMul dc s.a.toNat) : Int) ∧
      ((ch (blend .lighten d s)).toNat : Int) =
        clip ((dc : Int) + sc - min (roundMul sc d.a.toNat) (roundMul dc s.a.toNat) : Int)) ∧
    (blend .setalpha d s).a = s.r ∧ (blend .prealpha d s).a = s.r ∧ (blend .multiply d s).a.toNat = ta ∧
    (blend .darken d s).a.toNat = ta ∧ (blend .lighten d s).a.toNat = ta

/-- PASTE completes: the background, with the snippet blended over it where a pixel's parallelogram
coordinate is in [0, 1) on both axes; a skipped transform leaves the background. The box and the walk's
start and steps are written out in Safety.lean (44_combiners.md R335, R336; 42_generators.md R248, R249). -/
def Obligations.PasteBlendsInsideTheParallelogram : Prop :=
  ∀ (s : State) (d a b : Slot) (m : Mode) (op : Blend), MemoryCanonical s → Ready (.paste d a b m op) s →
    let D := slotTex s.snap d
    let A := slotTex s.snap a
    let k := s.snap
    let lox := pasteLow (param k 0) (param k 2) (param k 4)
    let hix := pasteHigh (param k 0) (param k 2) (param k 4)
    let loy := pasteLow (param k 1) (param k 3) (param k 5)
    let hiy := pasteHigh (param k 1) (param k 3) (param k 5)
    ∃ t, exec (.paste d a b m op) s = .next t ∧ CompletedTexture s t D ∧
      (ApartOrSame k d a → Apart k d b → ∀ x y, InTex D x y →
        let u := walkU k D lox loy x y
        let v := walkV k D lox loy x y
        let drawn := InBox D.sx lox hix x ∧ InBox D.sy loy hiy y ∧ Draws k D ∧
          0 ≤ u ∧ u < 65536 ∧ 0 ≤ v ∧ v < 65536
        (drawn → texRead t.mem D x y =
          blend op (texRead s.mem A x y) (sampleFiltered s.mem (slotTex k b) (u * 2 ^ 8) (v * 2 ^ 8) m)) ∧
        (¬ drawn → texRead t.mem D x y = texRead s.mem A x y))

/-- The parallelogram of the whole texture: every pixel is inside, at the coordinate of its own centre
(30_encoding.md R142 `fullpaste`, 42_generators.md R249). -/
def Obligations.FullPasteCoversTheTexture : Prop :=
  ∀ (k : Snapshot) (D : Tex) (x y : Nat), D.sizeOk = true → InTex D x y →
    param k 0 = 0 → param k 1 = 0 → param k 2 = 65536 → param k 3 = 0 → param k 4 = 0 → param k 5 = 65536 →
    let lox := pasteLow (param k 0) (param k 2) (param k 4)
    let hix := pasteHigh (param k 0) (param k 2) (param k 4)
    let loy := pasteLow (param k 1) (param k 3) (param k 5)
    let hiy := pasteHigh (param k 1) (param k 3) (param k 5)
    let u := walkU k D lox loy x y
    let v := walkV k D lox loy x y
    InBox D.sx lox hix x ∧ InBox D.sy loy hiy y ∧ Draws k D ∧
    u * 2 ^ 8 = (2 * x + 1) * 2 ^ (23 - D.sx) ∧ v * 2 ^ 8 = (2 * y + 1) * 2 ^ (23 - D.sy) ∧
    0 ≤ u ∧ u < 65536 ∧ 0 ≤ v ∧ v < 65536

/-- 44_combiners.md R360: the normalised vector's formula with the exact integer square root, its zero
and its examples; no component passes 1.0. -/
def Obligations.NormalisedVectorIsBounded : Prop :=
  (∀ v : Vec3, v ≠ ⟨0, 0, 0⟩ →
    let l : Int := Nat.sqrt ((v.x ^ 2 + v.y ^ 2 + v.z ^ 2) * 2 ^ 32).toNat
    norm3 v = ⟨Int.tdiv (v.x * 2 ^ 32) l, Int.tdiv (v.y * 2 ^ 32) l, Int.tdiv (v.z * 2 ^ 32) l⟩ ∧
    ∀ c ∈ [(norm3 v).x, (norm3 v).y, (norm3 v).z], -65536 ≤ c ∧ c ≤ 65536) ∧
  norm3 ⟨0, 0, 0⟩ = ⟨0, 0, 0⟩ ∧ (∀ a b : Vec3, dot a b = a.x * b.x + a.y * b.y + a.z * b.z) ∧
  norm3 ⟨0, 0, -65536⟩ = ⟨0, 0, -65536⟩ ∧ norm3 ⟨65536, 0, -65536⟩ = ⟨46340, 0, -46340⟩ ∧
  norm3 ⟨3, 4, 0⟩ = ⟨39321, 52428, 0⟩

/-- BUMP completes: the albedo times the saturated ambient and diffuse light, times the falloff gradient,
plus the specular gradient under the pixel's own alpha (44_combiners.md R362, R363). -/
def Obligations.BumpLightsTheSurface : Prop :=
  ∀ (s : State) (d a b c e : Slot) (directional spec falloff : Bool), MemoryCanonical s →
    Ready (.bump d a b c e directional spec falloff) s →
    let k := s.snap
    let D := slotTex k d
    ∃ t, exec (.bump d a b c e directional spec falloff) s = .next t ∧ CompletedTexture s t D ∧
      (ApartOrSame k d a → ApartOrSame k d b → (spec = true → Apart k d c) → (falloff = true → Apart k d e) →
        ∀ x y, InTex D x y →
        let p := texRead s.mem (slotTex k a) x y
        let n := texRead s.mem (slotTex k b) x y
        let dn := norm3 ⟨param k 3, param k 4, param k 5⟩
        let l : Vec3 := if directional then ⟨-dn.x, -dn.y, -dn.z⟩ else
          norm3 ⟨param k 0 - (2 * x + 1) * 2 ^ (15 - D.sx), param k 1 - (2 * y + 1) * 2 ^ (15 - D.sy), param k 2⟩
        let h := norm3 ⟨l.x, l.y, l.z + 65536⟩
        let nv : Vec3 := ⟨2 * ((n.r.toNat : Int) - 32768), 2 * ((n.g.toNat : Int) - 32768), 2 * ((n.b.toNat : Int) - 32768)⟩
        let term := fun v : Int => max 0 (v / 2 ^ 16)
        let fp := sampleGradient s.cfg.gradInset s.mem (slotTex k e) (min (term (-(dot dn l))) 65536 * 2 ^ 8)
        let sp := sampleGradient s.cfg.gradInset s.mem (slotTex k c) (min (term (dot nv h)) 65536 * 2 ^ 8)
        let lit : (Pixel → U16) → Nat := fun ch =>
          let ad := (min (((ch (pixPair k 6)).toNat : Int) + (ch (pixPair k 8)).toNat * term (dot nv l) / 2 ^ 16) 65535).toNat
          roundMul (ch p).toNat (if falloff then roundMul ad (ch fp).toNat else ad)
        let q := texRead t.mem D x y
        q.a.toNat = lit Pixel.a ∧
        ∀ ch ∈ colors, (ch q).toNat =
          if spec then min (lit ch + (if falloff then roundMul (ch sp).toNat (ch fp).toNat else (ch sp).toNat)) (lit Pixel.a)
          else lit ch)

/-- LINEAR.COMBINE completes: each channel the exact weighted sum of the constant and of every input's
sample, rounded once half up and clamped; with no input and weight 1.0 it fills with the constant
(44_combiners.md R372; the pointer unsigned is log 15, the scratch free log 4). -/
def Obligations.LinearCombineSumsItsInputs : Prop :=
  ∀ (s : State) (d : Slot), MemoryCanonical s → Ready (.linearCombine d) s →
    0 ≤ param s.snap 1 → param s.snap 1 ≤ 255 → -127 * 65536 ≤ param s.snap 2 → param s.snap 2 ≤ 127 * 65536 →
    (0 < param s.snap 1 → paramU s.snap 0 % 4 = 0 ∧ paramU s.snap 0 + 24 * param s.snap 1 ≤ 2 ^ 32) →
    let rs := inputRecords s.mem (paramU s.snap 0) 0 (param s.snap 1).toNat
    (∀ j : Nat, (j : Int) < param s.snap 1 → firstError (recordChecks j (inputRecord s.mem (paramU s.snap 0) j)) = none) →
    let D := slotTex s.snap d
    ∃ t, exec (.linearCombine d) s = .next t ∧ CompletedWithScratch s t D ∧
      ((∀ r ∈ rs, D.extent.meets (recordTex r).extent = false) → ∀ x y, InTex D x y →
        let sample := fun r : InputRecord => sampleFiltered s.mem (recordTex r)
          (wrap32 ((2 * x + 1) * 2 ^ (23 - D.sx) + r.us.toInt)) (wrap32 ((2 * y + 1) * 2 ^ (23 - D.sy) + r.vs.toInt))
          (recordMode r)
        ∀ ch ∈ channels, ((ch (texRead t.mem D x y)).toNat : Int) =
          min (max ((param s.snap 2 * (ch (pixPair s.snap 3)).toNat
            + (rs.map fun r => r.weight.toInt * (ch (sample r)).toNat).sum + 32768) / 65536) 0) 65535) ∧
      (param s.snap 1 = 0 → param s.snap 2 = 65536 → ∀ x y, InTex D x y →
        texRead t.mem D x y = pixPair s.snap 3)
end

