-- ==== Sys2Proof/Laws/State.lean ====
section
/-! SUPPORT. One lemma per field per update of State, each by `rfl`: no proof need unfold an update. -/

namespace Sys2Proof.Machine

variable (s : State)

/-! ## accept -/

@[simp] theorem accept_cfg (w : Word) : (accept s w).cfg = s.cfg := rfl
@[simp] theorem accept_ctrl (w : Word) : (accept s w).ctrl = s.ctrl := rfl
@[simp] theorem accept_status (w : Word) : (accept s w).status = statusAccepted s.status := rfl
@[simp] theorem accept_cmd (w : Word) : (accept s w).cmd = w := rfl
@[simp] theorem accept_errinfo (w : Word) : (accept s w).errinfo = s.errinfo := rfl
@[simp] theorem accept_resRg (w : Word) : (accept s w).resRg = s.resRg := rfl
@[simp] theorem accept_resBa (w : Word) : (accept s w).resBa = s.resBa := rfl
@[simp] theorem accept_td (w : Word) : (accept s w).td = s.td := rfl
@[simp] theorem accept_param (w : Word) : (accept s w).param = s.param := rfl
@[simp] theorem accept_snap (w : Word) : (accept s w).snap = ⟨w, s.td, s.param⟩ := rfl
@[simp] theorem accept_perm (w : Word) : (accept s w).perm = s.perm := rfl
@[simp] theorem accept_scratch (w : Word) : (accept s w).scratch = s.scratch := rfl
@[simp] theorem accept_mem (w : Word) : (accept s w).mem = s.mem := rfl
@[simp] theorem accept_rst (w : Word) : (accept s w).rst = s.rst := rfl
@[simp] theorem accept_port (w : Word) : (accept s w).port = s.port := rfl
@[simp] theorem accept_inputs (w : Word) : (accept s w).inputs = s.inputs := rfl
@[simp] theorem accept_raced (w : Word) : (accept s w).raced = [] := rfl
@[simp] theorem accept_hostData (w : Word) : (accept s w).hostData = s.hostData := rfl
@[simp] theorem accept_freeIx (w : Word) : (accept s w).freeIx = s.freeIx := rfl

/-! ## finish -/

@[simp] theorem finish_cfg : (finish s).cfg = s.cfg := rfl
@[simp] theorem finish_ctrl : (finish s).ctrl = s.ctrl := rfl
@[simp] theorem finish_status : (finish s).status = statusFinished s.status := rfl
@[simp] theorem finish_cmd : (finish s).cmd = s.cmd := rfl
@[simp] theorem finish_errinfo : (finish s).errinfo = s.errinfo := rfl
@[simp] theorem finish_resRg : (finish s).resRg = s.resRg := rfl
@[simp] theorem finish_resBa : (finish s).resBa = s.resBa := rfl
@[simp] theorem finish_td : (finish s).td = s.td := rfl
@[simp] theorem finish_param : (finish s).param = s.param := rfl
@[simp] theorem finish_snap : (finish s).snap = s.snap := rfl
@[simp] theorem finish_perm : (finish s).perm = s.perm := rfl
@[simp] theorem finish_scratch : (finish s).scratch = s.scratch := rfl
@[simp] theorem finish_mem : (finish s).mem = s.mem := rfl
@[simp] theorem finish_rst : (finish s).rst = s.rst := rfl
@[simp] theorem finish_port : (finish s).port = s.port := rfl
@[simp] theorem finish_inputs : (finish s).inputs = s.inputs := rfl
@[simp] theorem finish_raced : (finish s).raced = s.raced := rfl
@[simp] theorem finish_hostData : (finish s).hostData = s.hostData := rfl
@[simp] theorem finish_freeIx : (finish s).freeIx = s.freeIx := rfl

/-! ## setRes -/

@[simp] theorem setRes_cfg (p : Pixel) : (setRes s p).cfg = s.cfg := rfl
@[simp] theorem setRes_ctrl (p : Pixel) : (setRes s p).ctrl = s.ctrl := rfl
@[simp] theorem setRes_status (p : Pixel) : (setRes s p).status = s.status := rfl
@[simp] theorem setRes_cmd (p : Pixel) : (setRes s p).cmd = s.cmd := rfl
@[simp] theorem setRes_errinfo (p : Pixel) : (setRes s p).errinfo = s.errinfo := rfl
@[simp] theorem setRes_resRg (p : Pixel) : (setRes s p).resRg = pairWord p.g p.r := rfl
@[simp] theorem setRes_resBa (p : Pixel) : (setRes s p).resBa = pairWord p.a p.b := rfl
@[simp] theorem setRes_td (p : Pixel) : (setRes s p).td = s.td := rfl
@[simp] theorem setRes_param (p : Pixel) : (setRes s p).param = s.param := rfl
@[simp] theorem setRes_snap (p : Pixel) : (setRes s p).snap = s.snap := rfl
@[simp] theorem setRes_perm (p : Pixel) : (setRes s p).perm = s.perm := rfl
@[simp] theorem setRes_scratch (p : Pixel) : (setRes s p).scratch = s.scratch := rfl
@[simp] theorem setRes_mem (p : Pixel) : (setRes s p).mem = s.mem := rfl
@[simp] theorem setRes_rst (p : Pixel) : (setRes s p).rst = s.rst := rfl
@[simp] theorem setRes_port (p : Pixel) : (setRes s p).port = s.port := rfl
@[simp] theorem setRes_inputs (p : Pixel) : (setRes s p).inputs = s.inputs := rfl
@[simp] theorem setRes_raced (p : Pixel) : (setRes s p).raced = s.raced := rfl
@[simp] theorem setRes_hostData (p : Pixel) : (setRes s p).hostData = s.hostData := rfl
@[simp] theorem setRes_freeIx (p : Pixel) : (setRes s p).freeIx = s.freeIx := rfl

/-! ## raiseError -/

@[simp] theorem raiseError_cfg (e : CmdError) : (raiseError s e).cfg = s.cfg := rfl
@[simp] theorem raiseError_ctrl (e : CmdError) : (raiseError s e).ctrl = s.ctrl := rfl
@[simp] theorem raiseError_status (e : CmdError) : (raiseError s e).status = statusFailed s.status e.code := rfl
@[simp] theorem raiseError_cmd (e : CmdError) : (raiseError s e).cmd = s.cmd := rfl
@[simp] theorem raiseError_errinfo (e : CmdError) : (raiseError s e).errinfo = if s.status.err then s.errinfo else e.info := rfl
@[simp] theorem raiseError_resRg (e : CmdError) : (raiseError s e).resRg = s.resRg := rfl
@[simp] theorem raiseError_resBa (e : CmdError) : (raiseError s e).resBa = s.resBa := rfl
@[simp] theorem raiseError_td (e : CmdError) : (raiseError s e).td = s.td := rfl
@[simp] theorem raiseError_param (e : CmdError) : (raiseError s e).param = s.param := rfl
@[simp] theorem raiseError_snap (e : CmdError) : (raiseError s e).snap = s.snap := rfl
@[simp] theorem raiseError_perm (e : CmdError) : (raiseError s e).perm = s.perm := rfl
@[simp] theorem raiseError_scratch (e : CmdError) : (raiseError s e).scratch = s.scratch := rfl
@[simp] theorem raiseError_mem (e : CmdError) : (raiseError s e).mem = s.mem := rfl
@[simp] theorem raiseError_rst (e : CmdError) : (raiseError s e).rst = s.rst := rfl
@[simp] theorem raiseError_port (e : CmdError) : (raiseError s e).port = s.port := rfl
@[simp] theorem raiseError_inputs (e : CmdError) : (raiseError s e).inputs = s.inputs := rfl
@[simp] theorem raiseError_raced (e : CmdError) : (raiseError s e).raced = s.raced := rfl
@[simp] theorem raiseError_hostData (e : CmdError) : (raiseError s e).hostData = s.hostData := rfl
@[simp] theorem raiseError_freeIx (e : CmdError) : (raiseError s e).freeIx = s.freeIx := rfl

/-! ## writeStatus -/

@[simp] theorem writeStatus_cfg (v : Word) : (writeStatus s v).cfg = s.cfg := rfl
@[simp] theorem writeStatus_ctrl (v : Word) : (writeStatus s v).ctrl = s.ctrl := rfl
@[simp] theorem writeStatus_status (v : Word) : (writeStatus s v).status = statusWritten s.status v := rfl
@[simp] theorem writeStatus_cmd (v : Word) : (writeStatus s v).cmd = s.cmd := rfl
@[simp] theorem writeStatus_errinfo (v : Word) : (writeStatus s v).errinfo = if v.getLsbD 2 then 0 else s.errinfo := rfl
@[simp] theorem writeStatus_resRg (v : Word) : (writeStatus s v).resRg = s.resRg := rfl
@[simp] theorem writeStatus_resBa (v : Word) : (writeStatus s v).resBa = s.resBa := rfl
@[simp] theorem writeStatus_td (v : Word) : (writeStatus s v).td = s.td := rfl
@[simp] theorem writeStatus_param (v : Word) : (writeStatus s v).param = s.param := rfl
@[simp] theorem writeStatus_snap (v : Word) : (writeStatus s v).snap = s.snap := rfl
@[simp] theorem writeStatus_perm (v : Word) : (writeStatus s v).perm = s.perm := rfl
@[simp] theorem writeStatus_scratch (v : Word) : (writeStatus s v).scratch = s.scratch := rfl
@[simp] theorem writeStatus_mem (v : Word) : (writeStatus s v).mem = s.mem := rfl
@[simp] theorem writeStatus_rst (v : Word) : (writeStatus s v).rst = s.rst := rfl
@[simp] theorem writeStatus_port (v : Word) : (writeStatus s v).port = s.port := rfl
@[simp] theorem writeStatus_inputs (v : Word) : (writeStatus s v).inputs = s.inputs := rfl
@[simp] theorem writeStatus_raced (v : Word) : (writeStatus s v).raced = s.raced := rfl
@[simp] theorem writeStatus_hostData (v : Word) : (writeStatus s v).hostData = s.hostData := rfl
@[simp] theorem writeStatus_freeIx (v : Word) : (writeStatus s v).freeIx = s.freeIx := rfl

/-! ## spoil -/

@[simp] theorem spoil_cfg (d : Tex) : (spoil s d).cfg = s.cfg := rfl
@[simp] theorem spoil_ctrl (d : Tex) : (spoil s d).ctrl = s.ctrl := rfl
@[simp] theorem spoil_status (d : Tex) : (spoil s d).status = s.status := rfl
@[simp] theorem spoil_cmd (d : Tex) : (spoil s d).cmd = s.cmd := rfl
@[simp] theorem spoil_errinfo (d : Tex) : (spoil s d).errinfo = s.errinfo := rfl
@[simp] theorem spoil_resRg (d : Tex) : (spoil s d).resRg = s.resRg := rfl
@[simp] theorem spoil_resBa (d : Tex) : (spoil s d).resBa = s.resBa := rfl
@[simp] theorem spoil_td (d : Tex) : (spoil s d).td = s.td := rfl
@[simp] theorem spoil_param (d : Tex) : (spoil s d).param = s.param := rfl
@[simp] theorem spoil_snap (d : Tex) : (spoil s d).snap = s.snap := rfl
@[simp] theorem spoil_perm (d : Tex) : (spoil s d).perm = s.perm := rfl
@[simp] theorem spoil_scratch (d : Tex) : (spoil s d).scratch = s.scratch := rfl
@[simp] theorem spoil_mem (d : Tex) : (spoil s d).mem = paint d (fun x y _ => Config.freePixel s.freeIx (d.addr x y)) s.mem := rfl
@[simp] theorem spoil_rst (d : Tex) : (spoil s d).rst = s.rst := rfl
@[simp] theorem spoil_port (d : Tex) : (spoil s d).port = s.port := rfl
@[simp] theorem spoil_inputs (d : Tex) : (spoil s d).inputs = s.inputs := rfl
@[simp] theorem spoil_raced (d : Tex) : (spoil s d).raced = s.raced := rfl
@[simp] theorem spoil_hostData (d : Tex) : (spoil s d).hostData = s.hostData := rfl
@[simp] theorem spoil_freeIx (d : Tex) : (spoil s d).freeIx = s.freeIx + 1 := rfl

/-! ## releaseScratch -/

@[simp] theorem releaseScratch_cfg : (releaseScratch s).cfg = s.cfg := rfl
@[simp] theorem releaseScratch_ctrl : (releaseScratch s).ctrl = s.ctrl := rfl
@[simp] theorem releaseScratch_status : (releaseScratch s).status = s.status := rfl
@[simp] theorem releaseScratch_cmd : (releaseScratch s).cmd = s.cmd := rfl
@[simp] theorem releaseScratch_errinfo : (releaseScratch s).errinfo = s.errinfo := rfl
@[simp] theorem releaseScratch_resRg : (releaseScratch s).resRg = s.resRg := rfl
@[simp] theorem releaseScratch_resBa : (releaseScratch s).resBa = s.resBa := rfl
@[simp] theorem releaseScratch_td : (releaseScratch s).td = s.td := rfl
@[simp] theorem releaseScratch_param : (releaseScratch s).param = s.param := rfl
@[simp] theorem releaseScratch_snap : (releaseScratch s).snap = s.snap := rfl
@[simp] theorem releaseScratch_perm : (releaseScratch s).perm = s.perm := rfl
@[simp] theorem releaseScratch_scratch : (releaseScratch s).scratch = Config.freeScratch s.freeIx := rfl
@[simp] theorem releaseScratch_mem : (releaseScratch s).mem = s.mem := rfl
@[simp] theorem releaseScratch_rst : (releaseScratch s).rst = s.rst := rfl
@[simp] theorem releaseScratch_port : (releaseScratch s).port = s.port := rfl
@[simp] theorem releaseScratch_inputs : (releaseScratch s).inputs = s.inputs := rfl
@[simp] theorem releaseScratch_raced : (releaseScratch s).raced = s.raced := rfl
@[simp] theorem releaseScratch_hostData : (releaseScratch s).hostData = s.hostData := rfl
@[simp] theorem releaseScratch_freeIx : (releaseScratch s).freeIx = s.freeIx + 1 := rfl

/-! ## spoilRes -/

@[simp] theorem spoilRes_cfg : (spoilRes s).cfg = s.cfg := rfl
@[simp] theorem spoilRes_ctrl : (spoilRes s).ctrl = s.ctrl := rfl
@[simp] theorem spoilRes_status : (spoilRes s).status = s.status := rfl
@[simp] theorem spoilRes_cmd : (spoilRes s).cmd = s.cmd := rfl
@[simp] theorem spoilRes_errinfo : (spoilRes s).errinfo = s.errinfo := rfl
@[simp] theorem spoilRes_resRg : (spoilRes s).resRg = pairWord (Config.freePixel s.freeIx 0).g (Config.freePixel s.freeIx 0).r := rfl
@[simp] theorem spoilRes_resBa : (spoilRes s).resBa = pairWord (Config.freePixel s.freeIx 0).a (Config.freePixel s.freeIx 0).b := rfl
@[simp] theorem spoilRes_td : (spoilRes s).td = s.td := rfl
@[simp] theorem spoilRes_param : (spoilRes s).param = s.param := rfl
@[simp] theorem spoilRes_snap : (spoilRes s).snap = s.snap := rfl
@[simp] theorem spoilRes_perm : (spoilRes s).perm = s.perm := rfl
@[simp] theorem spoilRes_scratch : (spoilRes s).scratch = s.scratch := rfl
@[simp] theorem spoilRes_mem : (spoilRes s).mem = s.mem := rfl
@[simp] theorem spoilRes_rst : (spoilRes s).rst = s.rst := rfl
@[simp] theorem spoilRes_port : (spoilRes s).port = s.port := rfl
@[simp] theorem spoilRes_inputs : (spoilRes s).inputs = s.inputs := rfl
@[simp] theorem spoilRes_raced : (spoilRes s).raced = s.raced := rfl
@[simp] theorem spoilRes_hostData : (spoilRes s).hostData = s.hostData := rfl
@[simp] theorem spoilRes_freeIx : (spoilRes s).freeIx = s.freeIx + 1 := rfl

/-! ## raceWrite -/

@[simp] theorem raceWrite_cfg (e : Extent) : (raceWrite s e).cfg = s.cfg := rfl
@[simp] theorem raceWrite_ctrl (e : Extent) : (raceWrite s e).ctrl = s.ctrl := rfl
@[simp] theorem raceWrite_status (e : Extent) : (raceWrite s e).status = s.status := rfl
@[simp] theorem raceWrite_cmd (e : Extent) : (raceWrite s e).cmd = s.cmd := rfl
@[simp] theorem raceWrite_errinfo (e : Extent) : (raceWrite s e).errinfo = s.errinfo := rfl
@[simp] theorem raceWrite_resRg (e : Extent) : (raceWrite s e).resRg = s.resRg := rfl
@[simp] theorem raceWrite_resBa (e : Extent) : (raceWrite s e).resBa = s.resBa := rfl
@[simp] theorem raceWrite_td (e : Extent) : (raceWrite s e).td = s.td := rfl
@[simp] theorem raceWrite_param (e : Extent) : (raceWrite s e).param = s.param := rfl
@[simp] theorem raceWrite_snap (e : Extent) : (raceWrite s e).snap = s.snap := rfl
@[simp] theorem raceWrite_perm (e : Extent) : (raceWrite s e).perm = s.perm := rfl
@[simp] theorem raceWrite_scratch (e : Extent) : (raceWrite s e).scratch = s.scratch := rfl
@[simp] theorem raceWrite_mem (e : Extent) : (raceWrite s e).mem = openBytes s.freeIx (e.bytes.filter fun a => !races s ⟨a, 1⟩) s.mem := rfl
@[simp] theorem raceWrite_rst (e : Extent) : (raceWrite s e).rst = s.rst := rfl
@[simp] theorem raceWrite_port (e : Extent) : (raceWrite s e).port = s.port := rfl
@[simp] theorem raceWrite_inputs (e : Extent) : (raceWrite s e).inputs = s.inputs := rfl
@[simp] theorem raceWrite_raced (e : Extent) : (raceWrite s e).raced = (e.bytes.filter fun a => races s ⟨a, 1⟩) ++ s.raced := rfl
@[simp] theorem raceWrite_hostData (e : Extent) : (raceWrite s e).hostData = s.hostData := rfl
@[simp] theorem raceWrite_freeIx (e : Extent) : (raceWrite s e).freeIx = s.freeIx + 1 := rfl

/-! ## raceRead -/

@[simp] theorem raceRead_cfg (e : Extent) : (raceRead s e).cfg = s.cfg := rfl
@[simp] theorem raceRead_ctrl (e : Extent) : (raceRead s e).ctrl = s.ctrl := rfl
@[simp] theorem raceRead_status (e : Extent) : (raceRead s e).status = s.status := rfl
@[simp] theorem raceRead_cmd (e : Extent) : (raceRead s e).cmd = s.cmd := rfl
@[simp] theorem raceRead_errinfo (e : Extent) : (raceRead s e).errinfo = s.errinfo := rfl
@[simp] theorem raceRead_resRg (e : Extent) : (raceRead s e).resRg = s.resRg := rfl
@[simp] theorem raceRead_resBa (e : Extent) : (raceRead s e).resBa = s.resBa := rfl
@[simp] theorem raceRead_td (e : Extent) : (raceRead s e).td = s.td := rfl
@[simp] theorem raceRead_param (e : Extent) : (raceRead s e).param = s.param := rfl
@[simp] theorem raceRead_snap (e : Extent) : (raceRead s e).snap = s.snap := rfl
@[simp] theorem raceRead_perm (e : Extent) : (raceRead s e).perm = s.perm := rfl
@[simp] theorem raceRead_scratch (e : Extent) : (raceRead s e).scratch = s.scratch := rfl
@[simp] theorem raceRead_mem (e : Extent) : (raceRead s e).mem = s.mem := rfl
@[simp] theorem raceRead_rst (e : Extent) : (raceRead s e).rst = s.rst := rfl
@[simp] theorem raceRead_port (e : Extent) : (raceRead s e).port = s.port := rfl
@[simp] theorem raceRead_inputs (e : Extent) : (raceRead s e).inputs = s.inputs := rfl
@[simp] theorem raceRead_raced (e : Extent) : (raceRead s e).raced = s.raced := rfl
@[simp] theorem raceRead_hostData (e : Extent) : (raceRead s e).hostData = BitVec.ofNat 64 ((Config.freeBits s.freeIx).toNat % 2 ^ (8 * e.len)) := rfl
@[simp] theorem raceRead_freeIx (e : Extent) : (raceRead s e).freeIx = s.freeIx + 1 := rfl

/-! ## loadCells -/

@[simp] theorem loadCells_cfg : (loadCells s).cfg = s.cfg := rfl
@[simp] theorem loadCells_ctrl : (loadCells s).ctrl = s.ctrl := rfl
@[simp] theorem loadCells_status : (loadCells s).status = s.status := rfl
@[simp] theorem loadCells_cmd : (loadCells s).cmd = s.cmd := rfl
@[simp] theorem loadCells_errinfo : (loadCells s).errinfo = s.errinfo := rfl
@[simp] theorem loadCells_resRg : (loadCells s).resRg = s.resRg := rfl
@[simp] theorem loadCells_resBa : (loadCells s).resBa = s.resBa := rfl
@[simp] theorem loadCells_td : (loadCells s).td = s.td := rfl
@[simp] theorem loadCells_param : (loadCells s).param = s.param := rfl
@[simp] theorem loadCells_snap : (loadCells s).snap = s.snap := rfl
@[simp] theorem loadCells_perm : (loadCells s).perm = s.perm := rfl
@[simp] theorem loadCells_scratch : (loadCells s).scratch = { s.scratch with cells := cellRecords s.mem (listAddr s.snap) 0 (listCount s.snap).toNat } := rfl
@[simp] theorem loadCells_mem : (loadCells s).mem = s.mem := rfl
@[simp] theorem loadCells_rst : (loadCells s).rst = s.rst := rfl
@[simp] theorem loadCells_port : (loadCells s).port = s.port := rfl
@[simp] theorem loadCells_inputs : (loadCells s).inputs = s.inputs := rfl
@[simp] theorem loadCells_raced : (loadCells s).raced = s.raced := rfl
@[simp] theorem loadCells_hostData : (loadCells s).hostData = s.hostData := rfl
@[simp] theorem loadCells_freeIx : (loadCells s).freeIx = s.freeIx := rfl

/-! ## loadInputs -/

@[simp] theorem loadInputs_cfg : (loadInputs s).cfg = s.cfg := rfl
@[simp] theorem loadInputs_ctrl : (loadInputs s).ctrl = s.ctrl := rfl
@[simp] theorem loadInputs_status : (loadInputs s).status = s.status := rfl
@[simp] theorem loadInputs_cmd : (loadInputs s).cmd = s.cmd := rfl
@[simp] theorem loadInputs_errinfo : (loadInputs s).errinfo = s.errinfo := rfl
@[simp] theorem loadInputs_resRg : (loadInputs s).resRg = s.resRg := rfl
@[simp] theorem loadInputs_resBa : (loadInputs s).resBa = s.resBa := rfl
@[simp] theorem loadInputs_td : (loadInputs s).td = s.td := rfl
@[simp] theorem loadInputs_param : (loadInputs s).param = s.param := rfl
@[simp] theorem loadInputs_snap : (loadInputs s).snap = s.snap := rfl
@[simp] theorem loadInputs_perm : (loadInputs s).perm = s.perm := rfl
@[simp] theorem loadInputs_scratch : (loadInputs s).scratch = { s.scratch with inputs := inputListRecords s.snap s.mem } := rfl
@[simp] theorem loadInputs_mem : (loadInputs s).mem = s.mem := rfl
@[simp] theorem loadInputs_rst : (loadInputs s).rst = s.rst := rfl
@[simp] theorem loadInputs_port : (loadInputs s).port = s.port := rfl
@[simp] theorem loadInputs_inputs : (loadInputs s).inputs = s.inputs := rfl
@[simp] theorem loadInputs_raced : (loadInputs s).raced = s.raced := rfl
@[simp] theorem loadInputs_hostData : (loadInputs s).hostData = s.hostData := rfl
@[simp] theorem loadInputs_freeIx : (loadInputs s).freeIx = s.freeIx := rfl

/-! ## resetRegisters -/

@[simp] theorem resetRegisters_cfg : (resetRegisters s).cfg = s.cfg := rfl
@[simp] theorem resetRegisters_ctrl : (resetRegisters s).ctrl = ⟨false, false⟩ := rfl
@[simp] theorem resetRegisters_status : (resetRegisters s).status = ⟨false, false, false, false, false, 0⟩ := rfl
@[simp] theorem resetRegisters_cmd : (resetRegisters s).cmd = 0 := rfl
@[simp] theorem resetRegisters_errinfo : (resetRegisters s).errinfo = 0 := rfl
@[simp] theorem resetRegisters_resRg : (resetRegisters s).resRg = 0 := rfl
@[simp] theorem resetRegisters_resBa : (resetRegisters s).resBa = 0 := rfl
@[simp] theorem resetRegisters_td : (resetRegisters s).td = Vector.replicate 8 ⟨0, 0, 0⟩ := rfl
@[simp] theorem resetRegisters_param : (resetRegisters s).param = Vector.replicate 64 0 := rfl
@[simp] theorem resetRegisters_snap : (resetRegisters s).snap = Snapshot.empty := rfl
@[simp] theorem resetRegisters_perm : (resetRegisters s).perm = #[] := rfl
@[simp] theorem resetRegisters_scratch : (resetRegisters s).scratch = ⟨[], [], [], []⟩ := rfl
@[simp] theorem resetRegisters_mem : (resetRegisters s).mem = s.mem := rfl
@[simp] theorem resetRegisters_rst : (resetRegisters s).rst = s.rst := rfl
@[simp] theorem resetRegisters_port : (resetRegisters s).port = s.port := rfl
@[simp] theorem resetRegisters_inputs : (resetRegisters s).inputs = s.inputs := rfl
@[simp] theorem resetRegisters_raced : (resetRegisters s).raced = s.raced := rfl
@[simp] theorem resetRegisters_hostData : (resetRegisters s).hostData = s.hostData := rfl
@[simp] theorem resetRegisters_freeIx : (resetRegisters s).freeIx = s.freeIx := rfl

variable (f : Status)

/-! ## statusAccepted -/

@[simp] theorem statusAccepted_busy : (statusAccepted f).busy = true := rfl
@[simp] theorem statusAccepted_done : (statusAccepted f).done = false := rfl
@[simp] theorem statusAccepted_err : (statusAccepted f).err = f.err := rfl
@[simp] theorem statusAccepted_ovr : (statusAccepted f).ovr = f.ovr := rfl
@[simp] theorem statusAccepted_permReady : (statusAccepted f).permReady = f.permReady := rfl
@[simp] theorem statusAccepted_errcode : (statusAccepted f).errcode = f.errcode := rfl

/-! ## statusFinished -/

@[simp] theorem statusFinished_busy : (statusFinished f).busy = false := rfl
@[simp] theorem statusFinished_done : (statusFinished f).done = true := rfl
@[simp] theorem statusFinished_err : (statusFinished f).err = f.err := rfl
@[simp] theorem statusFinished_ovr : (statusFinished f).ovr = f.ovr := rfl
@[simp] theorem statusFinished_permReady : (statusFinished f).permReady = f.permReady := rfl
@[simp] theorem statusFinished_errcode : (statusFinished f).errcode = f.errcode := rfl

/-! ## statusFailed -/

@[simp] theorem statusFailed_busy (c : ErrCode) : (statusFailed f c).busy = false := rfl
@[simp] theorem statusFailed_done (c : ErrCode) : (statusFailed f c).done = true := rfl
@[simp] theorem statusFailed_err (c : ErrCode) : (statusFailed f c).err = true := rfl
@[simp] theorem statusFailed_ovr (c : ErrCode) : (statusFailed f c).ovr = f.ovr := rfl
@[simp] theorem statusFailed_permReady (c : ErrCode) : (statusFailed f c).permReady = f.permReady := rfl
@[simp] theorem statusFailed_errcode (c : ErrCode) : (statusFailed f c).errcode = if f.err then f.errcode else codeOf c := rfl

/-! ## statusOverrun -/

@[simp] theorem statusOverrun_busy : (statusOverrun f).busy = f.busy := rfl
@[simp] theorem statusOverrun_done : (statusOverrun f).done = f.done := rfl
@[simp] theorem statusOverrun_err : (statusOverrun f).err = f.err := rfl
@[simp] theorem statusOverrun_ovr : (statusOverrun f).ovr = true := rfl
@[simp] theorem statusOverrun_permReady : (statusOverrun f).permReady = f.permReady := rfl
@[simp] theorem statusOverrun_errcode : (statusOverrun f).errcode = f.errcode := rfl

/-! ## statusWritten -/

@[simp] theorem statusWritten_busy (v : Word) : (statusWritten f v).busy = f.busy := rfl
@[simp] theorem statusWritten_done (v : Word) : (statusWritten f v).done = (f.done && !v.getLsbD 1) := rfl
@[simp] theorem statusWritten_err (v : Word) : (statusWritten f v).err = (f.err && !v.getLsbD 2) := rfl
@[simp] theorem statusWritten_ovr (v : Word) : (statusWritten f v).ovr = (f.ovr && !v.getLsbD 3) := rfl
@[simp] theorem statusWritten_permReady (v : Word) : (statusWritten f v).permReady = f.permReady := rfl
@[simp] theorem statusWritten_errcode (v : Word) : (statusWritten f v).errcode = if v.getLsbD 2 then 0 else f.errcode := rfl

/-! ## statusPermBuilt -/

@[simp] theorem statusPermBuilt_busy : (statusPermBuilt f).busy = f.busy := rfl
@[simp] theorem statusPermBuilt_done : (statusPermBuilt f).done = f.done := rfl
@[simp] theorem statusPermBuilt_err : (statusPermBuilt f).err = f.err := rfl
@[simp] theorem statusPermBuilt_ovr : (statusPermBuilt f).ovr = f.ovr := rfl
@[simp] theorem statusPermBuilt_permReady : (statusPermBuilt f).permReady = true := rfl
@[simp] theorem statusPermBuilt_errcode : (statusPermBuilt f).errcode = f.errcode := rfl

/-! ## statusStopped -/

@[simp] theorem statusStopped_busy : (statusStopped f).busy = false := rfl
@[simp] theorem statusStopped_done : (statusStopped f).done = f.done := rfl
@[simp] theorem statusStopped_err : (statusStopped f).err = f.err := rfl
@[simp] theorem statusStopped_ovr : (statusStopped f).ovr = f.ovr := rfl
@[simp] theorem statusStopped_permReady : (statusStopped f).permReady = f.permReady := rfl
@[simp] theorem statusStopped_errcode : (statusStopped f).errcode = f.errcode := rfl

end Sys2Proof.Machine
end

