-- ==== Sys2Proof/Laws/Memory.lean ====
section
/-! SUPPORT. Reading and writing memory: the canonical form is kept, a read after a write, and the
frame of every write (20_memory.md R93 to R95). -/

namespace Sys2Proof.Machine

/-! ## Bytes -/

theorem read_of_lt {m : Memory} {a : Nat} (h : ∀ c ∈ m, a < c.1) : m.read a = unlistedByte a := by
  induction m with
  | nil => rfl
  | cons c m ih =>
    have hc := h c (by simp)
    simp only [Memory.read]
    rw [if_neg (by omega)]
    exact ih fun c hc => h c (by simp [hc])

/-- A write leaves every other byte alone. -/
theorem read_write_other (m : Memory) {a b : Nat} (v : Byte) (h : b ≠ a) : (m.write a v).read b = m.read b := by
  induction m with
  | nil =>
    simp only [Memory.write]
    split
    · rfl
    · simp [Memory.read, h]
  | cons c m ih =>
    obtain ⟨k, x⟩ := c
    simp only [Memory.write]
    split
    · split
      · rfl
      · simp [Memory.read, h]
    · split
      · rename_i hk
        subst hk
        split
        · simp [Memory.read, h]
        · simp [Memory.read, h]
      · simp only [Memory.read, ih]

/-- A canonical memory reads back what is written. -/
theorem read_write_same {m : Memory} (hm : m.wf) (a : Nat) (v : Byte) : (m.write a v).read a = v := by
  induction m with
  | nil =>
    simp only [Memory.write]
    split
    · rename_i h; simp [Memory.read, h]
    · simp [Memory.read]
  | cons c m ih =>
    obtain ⟨k, x⟩ := c
    obtain ⟨hs, hn⟩ := hm
    rw [List.pairwise_cons] at hs
    simp only [Memory.write]
    split
    · rename_i hk
      split
      · rename_i hv
        rw [hv]
        refine read_of_lt fun c hc => ?_
        rcases List.mem_cons.1 hc with rfl | hc
        · exact hk
        · exact lt_trans hk (hs.1 c hc)
      · simp [Memory.read]
    · split
      · rename_i hk
        subst hk
        split
        · rename_i hv
          rw [hv]
          exact read_of_lt fun c hc => hs.1 c hc
        · simp [Memory.read]
      · rename_i hk
        simp only [Memory.read]
        rw [if_neg hk]
        exact ih ⟨hs.2, fun c hc => hn c (by simp [hc])⟩

theorem mem_write {m : Memory} {a : Nat} {v : Byte} {c : Host.Cell} (h : c ∈ m.write a v) :
    c ∈ m ∨ (c = (a, v) ∧ v ≠ unlistedByte a) := by
  induction m with
  | nil =>
    simp only [Memory.write] at h
    split at h
    · simp at h
    · rename_i hv; simp at h; exact .inr ⟨h, hv⟩
  | cons d m ih =>
    obtain ⟨k, x⟩ := d
    simp only [Memory.write] at h
    split at h
    · split at h
      · exact .inl h
      · rename_i hv
        rcases List.mem_cons.1 h with rfl | h
        · exact .inr ⟨rfl, hv⟩
        · exact .inl h
    · split at h
      · split at h
        · exact .inl (by simp [h])
        · rename_i hv
          rcases List.mem_cons.1 h with rfl | h
          · exact .inr ⟨rfl, hv⟩
          · exact .inl (by simp [h])
      · rcases List.mem_cons.1 h with rfl | h
        · exact .inl (by simp)
        · rcases ih h with h | h
          · exact .inl (by simp [h])
          · exact .inr h

/-- A write keeps the canonical form. -/
theorem write_wf {m : Memory} (hm : m.wf) (a : Nat) (v : Byte) : (m.write a v).wf := by
  refine ⟨?_, fun c hc => ?_⟩
  · obtain ⟨hs, hn⟩ := hm
    induction m with
    | nil =>
      simp only [Memory.write]
      split <;> simp
    | cons c m ih =>
      obtain ⟨k, x⟩ := c
      have hs' := List.pairwise_cons.1 hs
      simp only [Memory.write]
      split
      · rename_i hk
        split
        · exact hs
        · refine List.pairwise_cons.2 ⟨fun c hc => ?_, hs⟩
          rcases List.mem_cons.1 hc with rfl | hc
          · exact hk
          · exact lt_trans hk (hs'.1 c hc)
      · split
        · rename_i hk
          subst hk
          split
          · exact hs'.2
          · exact List.pairwise_cons.2 ⟨fun c hc => hs'.1 c hc, hs'.2⟩
        · rename_i h1 h2
          refine List.pairwise_cons.2 ⟨fun c hc => ?_, ih hs'.2 fun c hc => hn c (by simp [hc])⟩
          rcases mem_write hc with hc | ⟨rfl, -⟩
          · exact hs'.1 c hc
          · show k < a
            omega
  · rcases mem_write hc with hc | ⟨rfl, hv⟩
    · exact hm.2 c hc
    · exact hv

/-- A write within the memory space keeps every listed byte in it. -/
theorem write_inSpace {m : Memory} (hm : m.inSpace) {a : Nat} (ha : a < 2 ^ 32) (v : Byte) :
    (m.write a v).inSpace := by
  intro c hc
  rcases mem_write hc with hc | ⟨rfl, -⟩
  · exact hm c hc
  · exact ha

/-! ## Words -/

theorem read_memWrite_other (n : Nat) (m : Memory) {addr b : Nat} (v : Nat) (h : b < addr ∨ addr + n ≤ b) :
    (memWrite m addr v n).read b = m.read b := by
  induction n generalizing m addr v with
  | zero => rfl
  | succ n ih =>
    simp only [memWrite]
    rw [ih _ _ (by omega), read_write_other _ _ (by omega)]

theorem memWrite_wf (n : Nat) {m : Memory} (hm : m.wf) (addr v : Nat) : (memWrite m addr v n).wf := by
  induction n generalizing m addr v with
  | zero => exact hm
  | succ n ih => exact ih (write_wf hm _ _) _ _

theorem memWrite_inSpace (n : Nat) {m : Memory} (hm : m.inSpace) {addr : Nat} (h : addr + n ≤ 2 ^ 32) (v : Nat) :
    (memWrite m addr v n).inSpace := by
  induction n generalizing m addr v with
  | zero => exact hm
  | succ n ih => exact ih (write_inSpace hm (by omega) _) (by omega) _

theorem memRead_congr (n : Nat) {m m' : Memory} {addr : Nat}
    (h : ∀ a, addr ≤ a → a < addr + n → m.read a = m'.read a) : memRead m addr n = memRead m' addr n := by
  induction n generalizing addr with
  | zero => rfl
  | succ n ih =>
    simp only [memRead]
    rw [h addr (by omega) (by omega), ih fun a h1 h2 => h a (by omega) (by omega)]

/-- A canonical memory reads back the word that is written. -/
theorem memRead_memWrite_same (n : Nat) {m : Memory} (hm : m.wf) (addr v : Nat) :
    memRead (memWrite m addr v n) addr n = v % 2 ^ (8 * n) := by
  induction n generalizing m addr v with
  | zero => simp [memRead, Nat.mod_one]
  | succ n ih =>
    simp only [memRead, memWrite]
    rw [ih (write_wf hm _ _), read_memWrite_other _ _ _ (by omega), read_write_same hm, BitVec.toNat_ofNat]
    have : 2 ^ (8 * (n + 1)) = 256 * 2 ^ (8 * n) := by rw [Nat.mul_add, Nat.pow_add]; omega
    rw [this, Nat.mod_mul]

/-! ## Pixels -/

theorem pixelOfWord_pixelWord (p : Pixel) : pixelOfWord (pixelWord p) = p := by
  obtain ⟨r, g, b, a⟩ := p
  simp only [pixelOfWord, pixelWord, Pixel.mk.injEq]
  refine ⟨?_, ?_, ?_, ?_⟩ <;> ext i hi <;>
    have h1 : i < 32 ∧ i < 48 ∧ 16 + i < 32 ∧ 16 + i < 48 ∧ ¬ 48 ≤ 32 + i := by omega
  all_goals simp (disch := omega) [hi, h1]

/-- A pixel written is a pixel read. -/
theorem pixelAt_putPixel_same {m : Memory} (hm : m.wf) (addr : Nat) (p : Pixel) :
    pixelAt (putPixel m addr p) addr = p := by
  simp only [pixelAt, putPixel]
  rw [memRead_memWrite_same 8 hm, Nat.mod_eq_of_lt (pixelWord p).isLt, BitVec.ofNat_toNat]
  simp [pixelOfWord_pixelWord]

theorem pixelAt_congr {m m' : Memory} {addr : Nat} (h : ∀ a, addr ≤ a → a < addr + 8 → m.read a = m'.read a) :
    pixelAt m addr = pixelAt m' addr := by
  simp only [pixelAt, memRead_congr 8 h]

/-- A pixel written leaves a pixel at another place alone. -/
theorem pixelAt_putPixel_other (m : Memory) {addr b : Nat} (p : Pixel) (h : b + 8 ≤ addr ∨ addr + 8 ≤ b) :
    pixelAt (putPixel m addr p) b = pixelAt m b :=
  pixelAt_congr fun _ _ _ => read_memWrite_other 8 _ _ (by omega)

theorem putPixel_wf {m : Memory} (hm : m.wf) (addr : Nat) (p : Pixel) : (putPixel m addr p).wf := memWrite_wf 8 hm _ _

theorem read_putPixel_other (m : Memory) {addr b : Nat} (p : Pixel) (h : b < addr ∨ addr + 8 ≤ b) :
    (putPixel m addr p).read b = m.read b := read_memWrite_other 8 _ _ h

theorem putPixel_inSpace {m : Memory} (hm : m.inSpace) {addr : Nat} (h : addr + 8 ≤ 2 ^ 32) (p : Pixel) :
    (putPixel m addr p).inSpace := memWrite_inSpace 8 hm h _

end Sys2Proof.Machine
end

