-- ==== Sys2Proof/Laws/Texture.lean ====
section
/-! SUPPORT. Texels and the row-major walk of a destination (20_memory.md R95, R105): the canonical form
is kept, nothing outside the extent changes, and what a painted texel holds. -/

namespace Sys2Proof.Machine

/-! ## Loops -/

/-- A property that each turn carries on holds after the loop. -/
theorem loop_holds {α : Type} {P : Nat → α → Prop} {f : Nat → α → α} (n : Nat) {x : α} (h0 : P 0 x)
    (hs : ∀ i < n, ∀ y, P i y → P (i + 1) (f i y)) : P n (loop n f x) := by
  induction n with
  | zero => exact h0
  | succ n ih => exact hs n (by omega) _ (ih fun i hi => hs i (by omega))

/-- A property that no turn disturbs holds after the loop. -/
theorem loop_keeps {α : Type} {P : α → Prop} {f : Nat → α → α} (n : Nat) {x : α} (h0 : P x)
    (hs : ∀ i < n, ∀ y, P y → P (f i y)) : P (loop n f x) :=
  loop_holds (P := fun _ => P) n h0 hs

/-! ## Texel addresses -/

/-- A texel lies in its texture's extent. -/
theorem addr_in_extent (t : Tex) {x y : Nat} (h : InTex t x y) :
    t.base ≤ t.addr x y ∧ t.addr x y + 8 ≤ t.base + 8 * t.n := by
  obtain ⟨hx, hy⟩ := h
  simp only [Tex.addr, Tex.n, Tex.w, Tex.h] at *
  have h1 : (y + 1) * 2 ^ t.sx ≤ 2 ^ t.sy * 2 ^ t.sx := Nat.mul_le_mul_right _ hy
  rw [Nat.mul_comm (2 ^ t.sx) (2 ^ t.sy)]
  rw [Nat.add_mul] at h1
  omega

/-- Texels in row-major order lie at rising addresses, 8 bytes apart. -/
theorem addr_lt {t : Tex} {x y x' y' : Nat} (hx : x < t.w) (h : y < y' ∨ (y = y' ∧ x < x')) :
    t.addr x y + 8 ≤ t.addr x' y' := by
  simp only [Tex.addr, Tex.w] at *
  rcases h with h | ⟨rfl, h⟩
  · have h1 : (y + 1) * 2 ^ t.sx ≤ y' * 2 ^ t.sx := Nat.mul_le_mul_right _ h
    rw [Nat.add_mul] at h1
    omega
  · omega

/-- Two texels of a texture are the same or share no byte. -/
theorem addr_apart {t : Tex} {x y x' y' : Nat} (h : InTex t x y) (h' : InTex t x' y') (hne : (x, y) ≠ (x', y')) :
    t.addr x y + 8 ≤ t.addr x' y' ∨ t.addr x' y' + 8 ≤ t.addr x y := by
  by_cases hy : y = y'
  · subst hy
    have : x ≠ x' := fun e => hne (by rw [e])
    rcases Nat.lt_or_gt_of_ne this with hx | hx
    · exact .inl (addr_lt h.1 (.inr ⟨rfl, hx⟩))
    · exact .inr (addr_lt h'.1 (.inr ⟨rfl, hx⟩))
  · rcases Nat.lt_or_gt_of_ne hy with hy | hy
    · exact .inl (addr_lt h.1 (.inl hy))
    · exact .inr (addr_lt h'.1 (.inl hy))

/-! ## One texel -/

theorem texRead_texWrite_same {m : Memory} (hm : m.wf) (t : Tex) (x y : Nat) (p : Pixel) :
    texRead (texWrite m t x y p) t x y = p := pixelAt_putPixel_same hm _ _

theorem texRead_texWrite_other {m : Memory} {t : Tex} {x y x' y' : Nat} (h : InTex t x y) (h' : InTex t x' y')
    (hne : (x, y) ≠ (x', y')) (p : Pixel) : texRead (texWrite m t x y p) t x' y' = texRead m t x' y' := by
  rcases addr_apart h h' hne with h | h
  · exact pixelAt_putPixel_other _ _ (.inr h)
  · exact pixelAt_putPixel_other _ _ (.inl h)

theorem texWrite_wf {m : Memory} (hm : m.wf) (t : Tex) (x y : Nat) (p : Pixel) : (texWrite m t x y p).wf :=
  putPixel_wf hm _ _

theorem texWrite_inSpace {m : Memory} (hm : m.inSpace) {t : Tex} (ht : t.fits = true) {x y : Nat}
    (h : InTex t x y) (p : Pixel) : (texWrite m t x y p).inSpace := by
  have h1 := (addr_in_extent t h).2
  simp only [Tex.fits, decide_eq_true_eq] at ht
  exact putPixel_inSpace hm (by omega) _

theorem texWrite_sameOutside {t : Tex} {x y : Nat} (h : InTex t x y) (m : Memory) (p : Pixel) :
    SameOutside t.extent m (texWrite m t x y p) := by
  intro a ha
  have h1 := addr_in_extent t h
  simp only [Extent.has, Tex.extent] at ha
  exact read_putPixel_other _ _ (by simp only [not_and, not_lt] at ha; omega)

theorem SameOutside.refl (e : Extent) (m : Memory) : SameOutside e m m := fun _ _ => rfl

theorem SameOutside.trans {e : Extent} {m m' m'' : Memory} (h : SameOutside e m m') (h' : SameOutside e m' m'') :
    SameOutside e m m'' := fun a ha => (h' a ha).trans (h a ha)

/-! ## Painting -/

/-- What each texel's visit carries on holds after all of them. -/
theorem overTex_keeps {α : Type} {P : α → Prop} {d : Tex} {f : Nat → Nat → α → α} {m : α} (h0 : P m)
    (hs : ∀ x y m, InTex d x y → P m → P (f x y m)) : P (overTex d f m) :=
  loop_keeps _ h0 fun y hy _ hm => loop_keeps _ hm fun x hx m hm => hs x y m ⟨hx, hy⟩ hm

/-- What writing texels of `d`, some or all, carries on holds after a painting. -/
theorem paintWhere_keeps {P : Memory → Prop} {d : Tex} {f : Nat → Nat → Memory → Option Pixel} {m : Memory} (h0 : P m)
    (hs : ∀ x y p m, InTex d x y → P m → P (texWrite m d x y p)) : P (paintWhere d f m) := by
  refine overTex_keeps h0 fun x y m hxy hm => ?_
  split
  · exact hs x y _ m hxy hm
  · exact hm

theorem paintWhere_wf {m : Memory} (hm : m.wf) (d : Tex) (f : Nat → Nat → Memory → Option Pixel) :
    (paintWhere d f m).wf := paintWhere_keeps hm fun _ _ _ _ _ hm => texWrite_wf hm _ _ _ _

theorem paintWhere_inSpace {m : Memory} (hm : m.inSpace) {d : Tex} (hd : d.fits = true)
    (f : Nat → Nat → Memory → Option Pixel) : (paintWhere d f m).inSpace :=
  paintWhere_keeps hm fun _ _ _ _ h hm => texWrite_inSpace hm hd h _

/-- A painting changes nothing outside the texture's extent. -/
theorem paintWhere_sameOutside (d : Tex) (f : Nat → Nat → Memory → Option Pixel) (m : Memory) :
    SameOutside d.extent m (paintWhere d f m) :=
  paintWhere_keeps (P := SameOutside d.extent m) (.refl _ _) fun _ _ _ _ h hm =>
    hm.trans (texWrite_sameOutside h _ _)

theorem paint_wf {m : Memory} (hm : m.wf) (d : Tex) (f : Nat → Nat → Memory → Pixel) : (paint d f m).wf :=
  paintWhere_wf hm _ _

theorem paint_inSpace {m : Memory} (hm : m.inSpace) {d : Tex} (hd : d.fits = true)
    (f : Nat → Nat → Memory → Pixel) : (paint d f m).inSpace := paintWhere_inSpace hm hd _

theorem paint_sameOutside (d : Tex) (f : Nat → Nat → Memory → Pixel) (m : Memory) :
    SameOutside d.extent m (paint d f m) := paintWhere_sameOutside _ _ _

theorem copyTex_sameOutside (d a : Tex) (m : Memory) : SameOutside d.extent m (copyTex d a m) := paint_sameOutside _ _ _

/-- `m'` is `m` but for texels of `d` that stand before (x, y) in row-major order. -/
def SameBut (d : Tex) (x y : Nat) (m m' : Memory) : Prop :=
  ∀ a, ¬ (d.base ≤ a ∧ a < d.addr x y) → m'.read a = m.read a

/-- Each painted texel holds `f` of a memory in which only earlier texels of `d` have changed
(20_memory.md R105). -/
theorem paint_texel {m : Memory} (hm : m.wf) (d : Tex) (f : Nat → Nat → Memory → Pixel) {x y : Nat} (h : InTex d x y) :
    ∃ m', m'.wf ∧ SameBut d x y m m' ∧ texRead (paint d f m) d x y = f x y m' := by
  obtain ⟨hx, hy⟩ := h
  -- one row
  have row : ∀ y' < d.h, ∀ n ≤ d.w, ∀ m₁ : Memory, m₁.wf → SameBut d 0 y' m m₁ →
      (loop n (fun x m => texWrite m d x y' (f x y' m)) m₁).wf ∧
      SameBut d n y' m (loop n (fun x m => texWrite m d x y' (f x y' m)) m₁) ∧
      (∀ x' y₁, InTex d x' y₁ → y₁ < y' →
        texRead (loop n (fun x m => texWrite m d x y' (f x y' m)) m₁) d x' y₁ = texRead m₁ d x' y₁) ∧
      ∀ x' < n, ∃ m', m'.wf ∧ SameBut d x' y' m m' ∧
        texRead (loop n (fun x m => texWrite m d x y' (f x y' m)) m₁) d x' y' = f x' y' m' := by
    intro y' hy' n hn m₁ hw hs
    induction n with
    | zero => exact ⟨hw, hs, fun _ _ _ _ => rfl, fun _ h => by omega⟩
    | succ n ih =>
      obtain ⟨i1, i2, i3, i4⟩ := ih (by omega)
      have hin : InTex d n y' := ⟨by omega, hy'⟩
      refine ⟨texWrite_wf i1 _ _ _ _, ?_, ?_, ?_⟩
      · intro a ha
        have e : d.addr (n + 1) y' = d.addr n y' + 8 := by simp only [Tex.addr]; omega
        have hb := (addr_in_extent d hin).1
        rw [e] at ha
        exact (read_putPixel_other _ _ (by omega)).trans (i2 a (by omega))
      · intro x' y₁ h1 h2
        exact (texRead_texWrite_other hin h1 (by rintro ⟨⟩; omega) _).trans (i3 x' y₁ h1 h2)
      · intro x' hx'
        by_cases e : x' = n
        · subst e
          exact ⟨_, i1, i2, texRead_texWrite_same i1 _ _ _ _⟩
        · obtain ⟨m', w, s, t⟩ := i4 x' (by omega)
          exact ⟨m', w, s, (texRead_texWrite_other hin ⟨by omega, hy'⟩ (by rintro ⟨⟩; omega) _).trans t⟩
  have all : ∀ n ≤ d.h,
      (loop n (fun y m => loop d.w (fun x m => texWrite m d x y (f x y m)) m) m).wf ∧
      SameBut d 0 n m (loop n (fun y m => loop d.w (fun x m => texWrite m d x y (f x y m)) m) m) ∧
      ∀ x' y', x' < d.w → y' < n → ∃ m', m'.wf ∧ SameBut d x' y' m m' ∧
        texRead (loop n (fun y m => loop d.w (fun x m => texWrite m d x y (f x y m)) m) m) d x' y' = f x' y' m' := by
    intro n hn
    induction n with
    | zero => exact ⟨hm, fun _ _ => rfl, fun _ _ _ h => by omega⟩
    | succ n ih =>
      obtain ⟨i1, i2, i3⟩ := ih (by omega)
      obtain ⟨r1, r2, r3, r4⟩ := row n (by omega) d.w le_rfl _ i1 i2
      refine ⟨r1, ?_, ?_⟩
      · intro a ha
        refine r2 a ?_
        have e : d.addr d.w n = d.addr 0 (n + 1) := by simp only [Tex.addr, Tex.w, Nat.add_mul]; omega
        rw [e]; exact ha
      · intro x' y' hx' hy'
        by_cases e : y' = n
        · subst e; exact r4 x' hx'
        · obtain ⟨m', w, s, t⟩ := i3 x' y' hx' (by omega)
          exact ⟨m', w, s, (r3 x' y' ⟨hx', by omega⟩ (by omega)).trans t⟩
  exact (all d.h le_rfl).2.2 x y hx hy

/-- Where `f` reads nothing of `d`'s extent, a painted texel holds `f` of the memory before. -/
theorem paint_texel_apart {m : Memory} (hm : m.wf) {d : Tex} {f : Nat → Nat → Memory → Pixel} {x y : Nat}
    (h : InTex d x y) (hf : ∀ m', SameOutside d.extent m m' → f x y m' = f x y m) :
    texRead (paint d f m) d x y = f x y m := by
  obtain ⟨m', -, s, t⟩ := paint_texel hm d f h
  rw [t]
  refine hf m' fun a ha => s a fun hb => ha ⟨hb.1, ?_⟩
  have := (addr_in_extent d h).2
  simp only [Tex.extent]
  omega

/-- Two textures that share no byte. -/
theorem meets_false {e f : Extent} : e.meets f = false ↔ ∀ a, ¬ (e.has a ∧ f.has a) := by
  simp only [Extent.meets, decide_eq_false_iff_not, Extent.has]
  constructor
  · rintro h a ⟨h1, h2⟩
    exact h (by omega)
  · intro h h'
    exact h (max e.base f.base) (by omega)

/-- A texel of `a` reads the same in memories that agree outside a `d` apart from it. -/
theorem texRead_apart {d a : Tex} (hda : d.extent.meets a.extent = false) {m m' : Memory}
    (h : SameOutside d.extent m m') {x y : Nat} (hin : InTex a x y) : texRead m' a x y = texRead m a x y := by
  have hb := addr_in_extent a hin
  refine pixelAt_congr fun b h1 h2 => h b fun hd => meets_false.1 hda b ⟨hd, ?_⟩
  simp only [Extent.has, Tex.extent]
  omega

/-- A copy from a texture apart from the destination holds its texels (41_sampler.md R205 (d)). -/
theorem copyTex_texel {m : Memory} (hm : m.wf) {d a : Tex} (hc : d.compatible a = true)
    (hda : d.extent.meets a.extent = false) {x y : Nat} (h : InTex d x y) :
    texRead (copyTex d a m) d x y = texRead m a x y := by
  refine paint_texel_apart hm h fun m' hs => texRead_apart hda hs ?_
  simp only [Tex.compatible, Bool.and_eq_true, beq_iff_eq] at hc
  simpa only [InTex, Tex.w, Tex.h, ← hc.1, ← hc.2] using h

end Sys2Proof.Machine
end

