-- ==== Sys2Proof/Laws/Ops.lean ====
section
/-! SUPPORT. Everything each shared operation of a command can do, once: the checks, the launch of a
command's body, the errors (60_exceptions.md R402 to R406). -/

namespace Sys2Proof.Machine

/-! ## Checks -/

theorem firstError_append (cs ds : List Check) :
    firstError (cs ++ ds) = (firstError cs).or (firstError ds) := by
  induction cs with
  | nil => rfl
  | cons c cs ih => cases c <;> simp [firstError, ih]

theorem firstError_none {cs : List Check} : firstError cs = none ↔ ∀ c ∈ cs, c = none := by
  induction cs with
  | nil => simp [firstError]
  | cons c cs ih => cases c <;> simp [firstError, ih]

theorem failIf_none {b : Bool} {e : CmdError} : failIf b e = none ↔ b = false := by cases b <;> simp [failIf]

/-- The slot checks pass when every slot does (41_sampler.md R191). -/
theorem slotChecks_none {k : Snapshot} {ns : List Slot} :
    firstError (slotChecks k ns) = none ↔ ∀ n ∈ ns, SlotOk k n := by
  rw [firstError_none]
  induction ns with
  | nil => simp [slotChecks]
  | cons n ns ih =>
    simp only [slotChecks, List.mem_append, List.mem_cons, slotCheck, or_imp, forall_and, ih, forall_eq,
      failIf_none, SlotOk, Bool.not_eq_false', List.not_mem_nil, false_imp_iff, and_true]
    tauto

/-- The compatibility checks pass when every slot is compatible (41_sampler.md R192). -/
theorem matchChecks_none {k : Snapshot} {d : Slot} {ns : List Slot} :
    firstError (matchChecks k d ns) = none ↔ ∀ n ∈ ns, SameSize k d n := by
  rw [firstError_none]
  induction ns with
  | nil => simp [matchChecks]
  | cons n ns ih =>
    simp only [matchChecks, List.mem_cons, or_imp, forall_and, ih, forall_eq, failIf_none, SameSize,
      Bool.not_eq_false']

/-- The coefficient checks pass when every coefficient is in range (43_filters.md R279). -/
theorem coefChecks_none {k : Snapshot} (n i : Nat) :
    firstError (coefChecks k i n) = none ↔ ∀ j, i ≤ j → j < i + n → coefOk (param k j) = true := by
  rw [firstError_none]
  induction n generalizing i with
  | zero => simp only [coefChecks, List.not_mem_nil, false_imp_iff, implies_true, true_iff]; omega
  | succ n ih =>
    simp only [coefChecks, List.mem_cons, or_imp, forall_and, ih, forall_eq, failIf_none, Bool.not_eq_false']
    constructor
    · rintro ⟨h1, h2⟩ j hj hj'
      rcases Nat.eq_or_lt_of_le hj with rfl | hj
      · exact h1
      · exact h2 j hj (by omega)
    · intro h
      exact ⟨h i le_rfl (by omega), fun j hj hj' => h j (by omega) (by omega)⟩

/-- A port without list errors passes every list read. -/
theorem listReadChecks_none {p : PortAnswer} (hp : ∀ k, p ≠ .listError k) (n i : Nat) :
    firstError (listReadChecks p i n) = none := by
  rw [firstError_none]
  induction n generalizing i with
  | zero => simp [listReadChecks]
  | succ n ih =>
    intro c hc
    rcases List.mem_cons.1 hc with rfl | hc
    · cases p with
      | listError k => exact absurd rfl (hp k)
      | ok => rfl
      | bodyError => rfl
    · exact ih _ c hc

/-! ## Running -/

/-- What the checks can answer: their first error taken, or what follows. -/
theorem afterChecks_cases (s : State) (cs : List Check) (go : Result) :
    (∃ e, firstError cs = some e ∧ afterChecks s cs go = .next (raiseError s e)) ∨
    (firstError cs = none ∧ afterChecks s cs go = go) := by
  unfold afterChecks
  cases firstError cs <;> simp

theorem afterChecks_pass {s : State} {cs : List Check} {go : Result} (h : firstError cs = none) :
    afterChecks s cs go = go := by simp [afterChecks, h]

theorem afterChecks_fail {s : State} {cs : List Check} {go : Result} {e : CmdError} (h : firstError cs = some e) :
    afterChecks s cs go = .next (raiseError s e) := by simp [afterChecks, h]

theorem unlessSideEffects_cases (s : State) (es : List Extent) (go : Result) :
    (reachesWindow s.cfg es = true ∧ unlessSideEffects s es go = .refused .sideEffects) ∨
    (reachesWindow s.cfg es = false ∧ unlessSideEffects s es go = go) := by
  unfold unlessSideEffects
  cases reachesWindow s.cfg es <;> simp

/-- What a sampling body can answer. -/
theorem runSample_cases (s : State) (es : List Extent) (p : Memory → Pixel) :
    runSample s es p = .refused .sideEffects ∨
    (s.port = .bodyError ∧ runSample s es p = .next (raiseError s busError)) ∨
    (s.port ≠ .bodyError ∧ runSample s es p = .next (finish (setRes s (p s.mem)))) := by
  rcases unlessSideEffects_cases s es
    (if s.port = .bodyError then .next (raiseError s busError) else .next (finish (setRes s (p s.mem))))
    with ⟨-, h⟩ | ⟨-, h⟩
  · exact .inl h
  · unfold runSample
    rw [h]
    by_cases hp : s.port = .bodyError <;> simp [hp]

/-- What a body that writes texture `d` can answer. -/
theorem runTexture_cases (s : State) (d : Tex) (es : List Extent) (body : Memory → Memory) :
    runTexture s d es body = .refused .sideEffects ∨
    (s.port = .bodyError ∧ runTexture s d es body = .next (raiseError (spoil s d) busError)) ∨
    (s.port ≠ .bodyError ∧ runTexture s d es body = .next (finish { s with mem := body s.mem })) := by
  rcases unlessSideEffects_cases s es
    (if s.port = .bodyError then .next (raiseError (spoil s d) busError)
     else .next (finish { s with mem := body s.mem })) with ⟨-, h⟩ | ⟨-, h⟩
  · exact .inl h
  · unfold runTexture
    rw [h]
    by_cases hp : s.port = .bodyError <;> simp [hp]

/-- With nothing in its way a sampling body completes. -/
theorem runSample_quiet {s : State} {es : List Extent} (h : Quiet s es) (p : Memory → Pixel) :
    runSample s es p = .next (finish (setRes s (p s.mem))) := by
  simp [runSample, unlessSideEffects, h.1, h.2]

/-- With nothing in its way a body that writes a texture completes. -/
theorem runTexture_quiet {s : State} {es : List Extent} (h : Quiet s es) (d : Tex) (body : Memory → Memory) :
    runTexture s d es body = .next (finish { s with mem := body s.mem }) := by
  simp [runTexture, unlessSideEffects, h.1, h.2]

/-- What a command that releases its scratch storage can answer. -/
theorem releasing_next {r : Result} {t : State} : releasing r = .next t ↔ ∃ u, r = .next u ∧ t = releaseScratch u := by
  cases r <;> simp [releasing, eq_comm]

/-- The extent a failed or abandoned command leaves open, and nothing else, changes. -/
theorem spoil_sameOutside (s : State) (d : Tex) : SameOutside d.extent s.mem (spoil s d).mem := paint_sameOutside _ _ _

theorem spoil_wf {s : State} (h : s.mem.wf) (d : Tex) : (spoil s d).mem.wf := paint_wf h _ _

theorem spoil_inSpace {s : State} (h : s.mem.inSpace) {d : Tex} (hd : d.fits = true) : (spoil s d).mem.inSpace :=
  paint_inSpace h hd _

/-- What an abandoned command can leave: its race closed, and nothing but BUSY changed, or a spoilt
destination too. -/
theorem abandon_cases (s : State) :
    (s.status.busy = false ∧ abandon s = s) ∨
    (s.status.busy = true ∧
      ((runningDest s = none ∧ abandon s = closeRace { s with status := statusStopped s.status }) ∨
      ∃ d, runningDest s = some d ∧ abandon s = closeRace { spoil s d with status := statusStopped s.status })) := by
  unfold abandon spoilRunning
  split
  · rename_i hb
    refine .inr ⟨hb, ?_⟩
    split
    · rename_i d h; exact .inr ⟨d, h, rfl⟩
    · rename_i h; exact .inl ⟨h, rfl⟩
  · rename_i hb; exact .inl ⟨by simpa using hb, rfl⟩

/-- A running command's destination passes its checks. -/
theorem runningDest_fits {s : State} {d : Tex} (h : runningDest s = some d) : d.fits = true := by
  unfold runningDest at h
  split at h
  · split at h
    · split at h
      · rename_i hd
        cases h
        exact (Bool.and_eq_true _ _ ▸ hd).2
      · cases h
    · cases h
  · cases h

/-! ## The result registers -/

theorem pixelOfWords_pairWord (p : Pixel) : pixelOfWords (pairWord p.g p.r) (pairWord p.a p.b) = p := by
  obtain ⟨r, g, b, a⟩ := p
  simp only [pixelOfWords, pairWord, place, Pixel.mk.injEq]
  refine ⟨?_, ?_, ?_, ?_⟩ <;> ext i hi <;> simp (disch := omega) [hi]

/-- RES reads back the pixel written (10_state.md R48). -/
@[simp] theorem resPixel_setRes (s : State) (p : Pixel) : resPixel (setRes s p) = p := pixelOfWords_pairWord p

end Sys2Proof.Machine
end

