-- ==== Sys2Proof/Laws/Bodies.lean ====
section
/-! SUPPORT. The bodies that do more than one painting (42_generators.md R252, 43_filters.md R307,
44_combiners.md R336): each changes its destination's extent only, and keeps the canonical form. -/

namespace Sys2Proof.Machine

/-! ## The parallelogram walk -/

/-- The box lies in the destination. -/
theorem box_in_tex {sx : Nat} {lo hi : Int} {i : Nat} (h : i < (boxHigh sx hi - boxLow sx lo + 1).toNat) :
    (boxLow sx lo).toNat + i < 2 ^ sx := by
  have h1 : (0 : Int) ≤ boxLow sx lo := le_max_left _ _
  have h2 : boxHigh sx hi ≤ 2 ^ sx - 1 := min_le_left _ _
  have h3 : ((2 ^ sx : Nat) : Int) = 2 ^ sx := by push_cast; rfl
  omega

/-- What each pixel's visit carries on holds after a walk of the box. -/
theorem overBox_keeps {α : Type} {P : α → Prop} {k : Snapshot} {d : Tex} {b : Bounds}
    {f : Nat → Nat → Int → Int → α → α} {m : α} (h0 : P m)
    (hs : ∀ x y u v m, InTex d x y → P m → P (f x y u v m)) : P (overBox k d b f m) := by
  unfold overBox
  simp only
  split
  · exact h0
  · split
    · exact h0
    · exact loop_keeps _ h0 fun j hj m hm => loop_keeps _ hm fun i hi m hm =>
        hs _ _ _ _ m ⟨box_in_tex hi, box_in_tex hj⟩ hm

/-- What writing texels of `d` carries on holds after a walk of the box. -/
theorem walkBox_keeps {P : Memory → Prop} {k : Snapshot} {d : Tex} {b : Bounds}
    {f : Nat → Nat → Int → Int → Memory → Option Pixel} {m : Memory} (h0 : P m)
    (hs : ∀ x y p m, InTex d x y → P m → P (texWrite m d x y p)) : P (walkBox k d b f m) := by
  refine overBox_keeps h0 fun x y u v m hxy hm => ?_
  split
  · exact hs _ _ _ m hxy hm
  · exact hm

theorem walkBox_sameOutside (k : Snapshot) (d : Tex) (b : Bounds)
    (f : Nat → Nat → Int → Int → Memory → Option Pixel) (m : Memory) :
    SameOutside d.extent m (walkBox k d b f m) :=
  walkBox_keeps (P := SameOutside d.extent m) (.refl _ _) fun _ _ _ _ h hm => hm.trans (texWrite_sameOutside h _ _)

/-- A skipped transform writes nothing (60_exceptions.md R405 (1)). -/
theorem walkBox_skips {k : Snapshot} {d : Tex} (h : skips k d = true) (b : Bounds)
    (f : Nat → Nat → Int → Int → Memory → Option Pixel) (m : Memory) : walkBox k d b f m = m := by
  simp [walkBox, overBox, h]

/-! ## Bodies -/

/-- What writing texels of `d` carries on holds after a copy. -/
theorem copyTex_keeps {P : Memory → Prop} {d a : Tex} {m : Memory} (h0 : P m)
    (hs : ∀ x y p m, InTex d x y → P m → P (texWrite m d x y p)) : P (copyTex d a m) := by
  unfold copyTex paint
  exact paintWhere_keeps h0 hs

/-- What writing texels of `d` carries on holds after GLOWRECT. -/
theorem glowBody_keeps {P : Memory → Prop} {g : GradInset} {k : Snapshot} {d a b : Tex} {m : Memory} (h0 : P m)
    (hs : ∀ x y p m, InTex d x y → P m → P (texWrite m d x y p)) : P (glowBody g k d a b m) :=
  walkBox_keeps (copyTex_keeps h0 hs) hs

/-- What writing texels of `d` carries on holds after PASTE. -/
theorem pasteBody_keeps {P : Memory → Prop} {k : Snapshot} {d a b : Tex} {mode : Mode} {op : Blend} {m : Memory}
    (h0 : P m) (hs : ∀ x y p m, InTex d x y → P m → P (texWrite m d x y p)) : P (pasteBody k d a b mode op m) :=
  walkBox_keeps (copyTex_keeps h0 hs) hs

/-- What writing texels of `d` carries on holds after BLUR. -/
theorem blurBody_keeps {P : Memory → Prop} {k : Snapshot} {d a : Tex} {wm : Wrap} {m : Memory} (h0 : P m)
    (hs : ∀ x y p m, InTex d x y → P m → P (texWrite m d x y p)) : P (blurBody k d a wm m) := by
  have rows : ∀ src s o c m, P m → P (blurRows d src s o c m) := fun src s o c m h =>
    loop_keeps _ h fun y hy m hm => loop_keeps _ hm fun x hx m hm => hs x y _ m ⟨hx, hy⟩ hm
  have cols : ∀ src s o c m, P m → P (blurColumns d src s o c m) := fun src s o c m h =>
    loop_keeps _ h fun x hx m hm => loop_keeps _ hm fun y hy m hm => hs x y _ m ⟨hx, hy⟩ hm
  unfold blurBody
  simp only
  split
  · exact copyTex_keeps h0 hs
  · split <;> split <;> first
      | exact cols _ _ _ _ _ (rows _ _ _ _ _ h0)
      | exact rows _ _ _ _ _ h0
      | exact cols _ _ _ _ _ h0
      | exact h0

end Sys2Proof.Machine
end

