-- ==== Sys2Proof/Laws/Encode.lean ====
section
/-! SUPPORT. The fields of a word put together from fields (30_encoding.md R121). -/

namespace Sys2Proof

variable (op : BitVec 8) (d a b c e : Slot) (m : BitVec 3) (s : BitVec 6)

theorem opField_wordOf : opField (wordOf op d a b c e m s) = op := by
  ext i hi
  simp only [opField, wordOf, place, BitVec.getElem_extractLsb', BitVec.getLsbD_or, BitVec.getLsbD_shiftLeft,
    BitVec.getLsbD_setWidth]
  interval_cases i <;> simp

theorem dField_wordOf : dField (wordOf op d a b c e m s) = d := by
  ext i hi
  simp only [dField, wordOf, place, BitVec.getElem_extractLsb', BitVec.getLsbD_or, BitVec.getLsbD_shiftLeft,
    BitVec.getLsbD_setWidth]
  interval_cases i <;> simp

theorem aField_wordOf : aField (wordOf op d a b c e m s) = a := by
  ext i hi
  simp only [aField, wordOf, place, BitVec.getElem_extractLsb', BitVec.getLsbD_or, BitVec.getLsbD_shiftLeft,
    BitVec.getLsbD_setWidth]
  interval_cases i <;> simp

theorem bField_wordOf : bField (wordOf op d a b c e m s) = b := by
  ext i hi
  simp only [bField, wordOf, place, BitVec.getElem_extractLsb', BitVec.getLsbD_or, BitVec.getLsbD_shiftLeft,
    BitVec.getLsbD_setWidth]
  interval_cases i <;> simp

theorem cField_wordOf : cField (wordOf op d a b c e m s) = c := by
  ext i hi
  simp only [cField, wordOf, place, BitVec.getElem_extractLsb', BitVec.getLsbD_or, BitVec.getLsbD_shiftLeft,
    BitVec.getLsbD_setWidth]
  interval_cases i <;> simp

theorem eField_wordOf : eField (wordOf op d a b c e m s) = e := by
  ext i hi
  simp only [eField, wordOf, place, BitVec.getElem_extractLsb', BitVec.getLsbD_or, BitVec.getLsbD_shiftLeft,
    BitVec.getLsbD_setWidth]
  interval_cases i <;> simp

theorem subField_wordOf : subField (wordOf op d a b c e m s) = s := by
  ext i hi
  simp only [subField, wordOf, place, BitVec.getElem_extractLsb', BitVec.getLsbD_or, BitVec.getLsbD_shiftLeft,
    BitVec.getLsbD_setWidth]
  interval_cases i <;> simp

theorem modeField_wordOf : modeField (wordOf op d a b c e m s) = ⟨⟨m.getLsbD 0, m.getLsbD 1⟩, m.getLsbD 2⟩ := by
  simp [modeField, wrapField, wordOf, place]

theorem subBit_wordOf (k : Nat) (hk : k < 6) : subBit (wordOf op d a b c e m s) k = s.getLsbD k := by
  interval_cases k <;> simp [subBit, wordOf, place]

/-- The fields of a word and a mask, field by field. -/
theorem wordOf_and (op' : BitVec 8) (d' a' b' c' e' : Slot) (m' : BitVec 3) (s' : BitVec 6) :
    wordOf op d a b c e m s &&& wordOf op' d' a' b' c' e' m' s' =
      wordOf (op &&& op') (d &&& d') (a &&& a') (b &&& b') (c &&& c') (e &&& e') (m &&& m') (s &&& s') := by
  ext i hi
  simp only [wordOf, place, BitVec.getElem_and, BitVec.getElem_or, BitVec.getElem_shiftLeft, BitVec.getElem_setWidth]
  interval_cases i <;> simp

end Sys2Proof
end

