-- ==== Sys2Proof/Laws/Exec.lean ====
section
/-! SUPPORT. What a command can leave behind, once for all 26 commands (60_exceptions.md R400, R402,
R406): nothing but an error, a result pixel, or texels of its destination. -/

namespace Sys2Proof.Machine

/-- `m'` is `m` after some writes of texels of `d`. -/
inductive Written (d : Tex) (m : Memory) : Memory → Prop
  | same : Written d m m
  | texel {m' : Memory} (x y : Nat) (p : Pixel) : Written d m m' → InTex d x y → Written d m (texWrite m' d x y p)

/-- What every texel write carries on holds of the memory written. -/
theorem Written.keeps {P : Memory → Prop} {d : Tex} {m m' : Memory} (h : Written d m m') (h0 : P m)
    (hs : ∀ x y p m, InTex d x y → P m → P (texWrite m d x y p)) : P m' := by
  induction h with
  | same => exact h0
  | texel x y p _ hin ih => exact hs x y p _ hin ih

theorem Written.wf {d : Tex} {m m' : Memory} (h : Written d m m') (hm : m.wf) : m'.wf :=
  h.keeps hm fun _ _ _ _ _ hm => texWrite_wf hm _ _ _ _

theorem Written.inSpace {d : Tex} {m m' : Memory} (h : Written d m m') (hd : d.fits = true) (hm : m.inSpace) :
    m'.inSpace := h.keeps hm fun _ _ _ _ hin hm => texWrite_inSpace hm hd hin _

theorem Written.sameOutside {d : Tex} {m m' : Memory} (h : Written d m m') : SameOutside d.extent m m' :=
  h.keeps (P := SameOutside d.extent m) (.refl _ _) fun _ _ _ _ hin hm => hm.trans (texWrite_sameOutside hin _ _)

theorem paint_written (d : Tex) (f : Nat → Nat → Memory → Pixel) (m : Memory) : Written d m (paint d f m) := by
  unfold paint
  exact paintWhere_keeps .same fun _ _ _ _ h hm => .texel _ _ _ hm h

theorem copyTex_written (d a : Tex) (m : Memory) : Written d m (copyTex d a m) := paint_written _ _ _

theorem glowBody_written (g : GradInset) (k : Snapshot) (d a b : Tex) (m : Memory) :
    Written d m (glowBody g k d a b m) := glowBody_keeps .same fun _ _ _ _ h hm => .texel _ _ _ hm h

theorem pasteBody_written (k : Snapshot) (d a b : Tex) (mode : Mode) (op : Blend) (m : Memory) :
    Written d m (pasteBody k d a b mode op m) := pasteBody_keeps .same fun _ _ _ _ h hm => .texel _ _ _ hm h

theorem blurBody_written (k : Snapshot) (d a : Tex) (wm : Wrap) (m : Memory) :
    Written d m (blurBody k d a wm m) := blurBody_keeps .same fun _ _ _ _ h hm => .texel _ _ _ hm h

/-- How a body that writes texture `d` from state `u` ends: normally, or, when the memory port reports an
error in the body, with `E_BUS`. -/
def EndsWriting (u : State) (d : Tex) (t : State) : Prop :=
  ∃ m' sc fx, Written d u.mem m' ∧
    (t = finish { u with mem := m', scratch := sc, freeIx := fx } ∨
     (u.port = .bodyError ∧ t = raiseError { u with mem := m', scratch := sc, freeIx := fx } busError))

theorem runTexture_next {u t : State} {d : Tex} {es : List Extent} {body : Memory → Memory}
    (hb : ∀ m, Written d m (body m)) (h : runTexture u d es body = .next t) : EndsWriting u d t := by
  rcases runTexture_cases u d es body with e | ⟨hp, e⟩ | ⟨-, e⟩ <;> rw [e] at h <;> cases h
  · exact ⟨_, u.scratch, _, paint_written d _ _, .inr ⟨hp, rfl⟩⟩
  · exact ⟨_, u.scratch, u.freeIx, hb _, .inl rfl⟩

theorem releasing_runTexture_next {u t : State} {d : Tex} {es : List Extent} {body : Memory → Memory}
    (hb : ∀ m, Written d m (body m)) (h : releasing (runTexture u d es body) = .next t) : EndsWriting u d t := by
  obtain ⟨v, hv, rfl⟩ := releasing_next.1 h
  obtain ⟨m', sc, fx, hw, e | ⟨hp, e⟩⟩ := runTexture_next hb hv <;> subst e
  · exact ⟨m', _, fx + 1, hw, .inl rfl⟩
  · exact ⟨m', _, fx + 1, hw, .inr ⟨hp, rfl⟩⟩

/-- How a command can end, when it answers a next state. -/
def EndsAs (i : Instr) (s t : State) : Prop :=
  (∃ e, t = raiseError s e) ∨
  (writesResult i = true ∧ ∃ p, t = finish (setRes s p)) ∨
  (i = .nop ∧ t = finish s) ∨
  ∃ n u, destSlot i = some n ∧ SlotOk s.snap n ∧ (u = s ∨ u = buildPerm s) ∧ EndsWriting u (slotTex s.snap n) t

theorem runSample_next {i : Instr} {s t : State} {es : List Extent} {p : Memory → Pixel} (hi : writesResult i = true)
    (h : runSample s es p = .next t) : EndsAs i s t := by
  rcases runSample_cases s es p with e | ⟨-, e⟩ | ⟨-, e⟩ <;> rw [e] at h <;> cases h
  · exact .inl ⟨_, rfl⟩
  · exact .inr (.inl ⟨hi, _, rfl⟩)

/-- A command whose checks pass goes on, one whose checks fail takes the error. -/
theorem afterChecks_next {i : Instr} {s t : State} {cs : List Check} {go : Result}
    (hgo : firstError cs = none → go = .next t → EndsAs i s t) (h : afterChecks s cs go = .next t) :
    EndsAs i s t := by
  rcases afterChecks_cases s cs go with ⟨e, -, h'⟩ | ⟨hc, h'⟩ <;> rw [h'] at h
  · cases h; exact .inl ⟨e, rfl⟩
  · exact hgo hc h

theorem unlessSideEffects_next {i : Instr} {s t : State} {es : List Extent} {go : Result}
    (hgo : go = .next t → EndsAs i s t) (h : unlessSideEffects s es go = .next t) : EndsAs i s t := by
  rcases unlessSideEffects_cases s es go with ⟨-, h'⟩ | ⟨-, h'⟩ <;> rw [h'] at h
  · cases h
  · exact hgo h

/-- A command uses its destination slot. -/
theorem dest_used {i : Instr} {d : Slot} (h : destSlot i = some d) : d ∈ usedSlots i := by
  cases i <;> cases h <;> simp [usedSlots]

/-- When the register checks of a command pass, its slots do (41_sampler.md R191). -/
theorem slots_ok {i : Instr} {k : Snapshot} (h : firstError (registerChecks i k) = none) :
    ∀ n ∈ usedSlots i, SlotOk k n := by
  unfold registerChecks at h
  rw [firstError_append, firstError_append, Option.or_eq_none_iff, Option.or_eq_none_iff] at h
  exact slotChecks_none.1 h.1.1

theorem dest_ok {i : Instr} {k : Snapshot} {d : Slot} (hd : destSlot i = some d)
    (h : firstError (registerChecks i k) = none) : SlotOk k d := slots_ok h d (dest_used hd)

/-- Every command that answers a next state ends in one of these ways. -/
theorem exec_next {i : Instr} {s t : State} (h : exec i s = .next t) : EndsAs i s t := by
  cases i with
  | nop => cases h; exact .inr (.inr (.inl ⟨rfl, rfl⟩))
  | smpNearest a wm => exact afterChecks_next (fun _ => runSample_next rfl) h
  | smpBilinear a wm => exact afterChecks_next (fun _ => runSample_next rfl) h
  | smpFiltered a m => exact afterChecks_next (fun _ => runSample_next rfl) h
  | smpGradient a => exact afterChecks_next (fun _ => runSample_next rfl) h
  | pixInit8 => cases h; exact .inr (.inl ⟨rfl, _, rfl⟩)
  | pixInit32 => cases h; exact .inr (.inl ⟨rfl, _, rfl⟩)
  | pixLerp => exact afterChecks_next (fun _ h => by cases h; exact .inr (.inl ⟨rfl, _, rfl⟩)) h
  | pixAdd => cases h; exact .inr (.inl ⟨rfl, _, rfl⟩)
  | pixMulc => cases h; exact .inr (.inl ⟨rfl, _, rfl⟩)
  | pixOver => cases h; exact .inr (.inl ⟨rfl, _, rfl⟩)
  | pixScreen => cases h; exact .inr (.inl ⟨rfl, _, rfl⟩)
  | texCopy d a =>
    exact afterChecks_next (fun hc h => .inr (.inr (.inr ⟨d, s, rfl, dest_ok rfl hc, .inl rfl,
      runTexture_next (copyTex_written _ _) h⟩))) h
  | noise d a ab nm bl =>
    refine afterChecks_next (fun hc h => .inr (.inr (.inr ⟨d, buildPerm s, rfl, dest_ok rfl hc, .inr rfl,
      runTexture_next (paint_written _ _) h⟩))) h
  | cells d a outer =>
    refine afterChecks_next (fun hc h => unlessSideEffects_next (fun h => afterChecks_next (fun _ h => ?_) h) h) h
    obtain ⟨m', sc, fx, hw, ht⟩ := releasing_runTexture_next (paint_written _ _) h
    exact .inr (.inr (.inr ⟨d, s, rfl, dest_ok rfl hc, .inl rfl, m', sc, fx, hw, ht⟩))
  | glowrect d a b =>
    exact afterChecks_next (fun hc h => .inr (.inr (.inr ⟨d, s, rfl, dest_ok rfl hc, .inl rfl,
      runTexture_next (glowBody_written _ _ _ _ _) h⟩))) h
  | colorMatrix d a pm =>
    exact afterChecks_next (fun hc h => .inr (.inr (.inr ⟨d, s, rfl, dest_ok rfl hc, .inl rfl,
      runTexture_next (paint_written _ _) h⟩))) h
  | coordMatrix d a m =>
    exact afterChecks_next (fun hc h => .inr (.inr (.inr ⟨d, s, rfl, dest_ok rfl hc, .inl rfl,
      runTexture_next (paint_written _ _) h⟩))) h
  | colorRemap d a b c e =>
    exact afterChecks_next (fun hc h => .inr (.inr (.inr ⟨d, s, rfl, dest_ok rfl hc, .inl rfl,
      runTexture_next (paint_written _ _) h⟩))) h
  | coordRemap d a b m =>
    exact afterChecks_next (fun hc h => .inr (.inr (.inr ⟨d, s, rfl, dest_ok rfl hc, .inl rfl,
      runTexture_next (paint_written _ _) h⟩))) h
  | derive d a nm =>
    exact afterChecks_next (fun hc h => .inr (.inr (.inr ⟨d, s, rfl, dest_ok rfl hc, .inl rfl,
      runTexture_next (paint_written _ _) h⟩))) h
  | blur d a wm =>
    exact afterChecks_next (fun hc h => .inr (.inr (.inr ⟨d, s, rfl, dest_ok rfl hc, .inl rfl,
      releasing_runTexture_next (blurBody_written _ _ _ _) h⟩))) h
  | ternary d a b c sel =>
    exact afterChecks_next (fun hc h => .inr (.inr (.inr ⟨d, s, rfl, dest_ok rfl hc, .inl rfl,
      runTexture_next (paint_written _ _) h⟩))) h
  | paste d a b m op =>
    exact afterChecks_next (fun hc h => .inr (.inr (.inr ⟨d, s, rfl, dest_ok rfl hc, .inl rfl,
      runTexture_next (pasteBody_written _ _ _ _ _ _) h⟩))) h
  | bump d a b c e dir sp fo =>
    exact afterChecks_next (fun hc h => .inr (.inr (.inr ⟨d, s, rfl, dest_ok rfl hc, .inl rfl,
      runTexture_next (paint_written _ _) h⟩))) h
  | linearCombine d =>
    refine afterChecks_next (fun hc h => unlessSideEffects_next (fun h => afterChecks_next (fun _ h => ?_) h) h) h
    obtain ⟨m', sc, fx, hw, ht⟩ := releasing_runTexture_next (paint_written _ _) h
    exact .inr (.inr (.inr ⟨d, s, rfl, dest_ok rfl hc, .inl rfl, m', sc, fx, hw, ht⟩))

end Sys2Proof.Machine
end

