-- ==== Sys2Proof/Laws/PerInstr.lean ====
section
/-! SUPPORT. Per-instruction lemmas: the encoding of a command carries its row's fixed bits
(30_encoding.md R123, R130). -/

namespace Sys2Proof.Laws

/-- `encode i & mask = match` for the row of `i`. -/
def MaskMatch.Statement (i : Instr) : Prop := encode i &&& (matchMask i).2 = (matchMask i).1

/-- A field that the mask leaves free. -/
theorem field_and_zero {n : Nat} (x : BitVec n) : x &&& 0 = 0 := by simp

/-- A command that uses M[1:0] only leaves M[2] zero (R124). -/
theorem wrapBits_and (wm : Wrap) : wrapBits wm &&& 4 = 0 := by
  obtain ⟨u, v⟩ := wm
  revert u v
  decide

/-- A command that uses S[0] only leaves the others zero (R125). -/
theorem subBits_and_one (x : Bool) : subBits x false false &&& 0x3E = 0 := by
  revert x
  decide

/-- A command that uses S[2:0] leaves the others zero (R125). -/
theorem subBits_and_three (x y z : Bool) : subBits x y z &&& 0x38 = 0 := by
  revert x y z
  decide

theorem MaskMatch.nop : MaskMatch.Statement .nop := by
  unfold MaskMatch.Statement
  decide

theorem MaskMatch.smpNearest (a : Slot) (wm : Wrap) : MaskMatch.Statement (.smpNearest a wm) := by
  simp only [MaskMatch.Statement, encode, matchMask, show (0xFE7FC7FF : Word) = wordOf 0xff 7 0 7 7 7 4 0x3f by decide, wordOf_and,
    field_and_zero, wrapBits_and]
  decide

theorem MaskMatch.smpBilinear (a : Slot) (wm : Wrap) : MaskMatch.Statement (.smpBilinear a wm) := by
  simp only [MaskMatch.Statement, encode, matchMask, show (0xFE7FC7FF : Word) = wordOf 0xff 7 0 7 7 7 4 0x3f by decide, wordOf_and,
    field_and_zero, wrapBits_and]
  decide

theorem MaskMatch.smpFiltered (a : Slot) (m : Mode) : MaskMatch.Statement (.smpFiltered a m) := by
  simp only [MaskMatch.Statement, encode, matchMask, show (0xFC7FC7FF : Word) = wordOf 0xff 7 0 7 7 7 0 0x3f by decide, wordOf_and,
    field_and_zero]
  decide

theorem MaskMatch.smpGradient (a : Slot) : MaskMatch.Statement (.smpGradient a) := by
  simp only [MaskMatch.Statement, encode, matchMask, show (0xFFFFC7FF : Word) = wordOf 0xff 7 0 7 7 7 7 0x3f by decide, wordOf_and,
    field_and_zero]
  decide

theorem MaskMatch.pixInit8 : MaskMatch.Statement .pixInit8 := by
  unfold MaskMatch.Statement
  decide

theorem MaskMatch.pixInit32 : MaskMatch.Statement .pixInit32 := by
  unfold MaskMatch.Statement
  decide

theorem MaskMatch.pixLerp : MaskMatch.Statement .pixLerp := by
  unfold MaskMatch.Statement
  decide

theorem MaskMatch.pixAdd : MaskMatch.Statement .pixAdd := by
  unfold MaskMatch.Statement
  decide

theorem MaskMatch.pixMulc : MaskMatch.Statement .pixMulc := by
  unfold MaskMatch.Statement
  decide

theorem MaskMatch.pixOver : MaskMatch.Statement .pixOver := by
  unfold MaskMatch.Statement
  decide

theorem MaskMatch.pixScreen : MaskMatch.Statement .pixScreen := by
  unfold MaskMatch.Statement
  decide

theorem MaskMatch.texCopy (d a : Slot) : MaskMatch.Statement (.texCopy d a) := by
  simp only [MaskMatch.Statement, encode, matchMask, show (0xFFFFC0FF : Word) = wordOf 0xff 0 0 7 7 7 7 0x3f by decide, wordOf_and,
    field_and_zero]
  decide

theorem MaskMatch.noise (d a : Slot) (abs normalize bandlimit : Bool) : MaskMatch.Statement (.noise d a abs normalize bandlimit) := by
  simp only [MaskMatch.Statement, encode, matchMask, show (0xE3FFC0FF : Word) = wordOf 0xff 0 0 7 7 7 7 0x38 by decide, wordOf_and,
    field_and_zero, subBits_and_three]
  decide

theorem MaskMatch.cells (d a : Slot) (outer : Bool) : MaskMatch.Statement (.cells d a outer) := by
  simp only [MaskMatch.Statement, encode, matchMask, show (0xFBFFC0FF : Word) = wordOf 0xff 0 0 7 7 7 7 0x3e by decide, wordOf_and,
    field_and_zero, subBits_and_one]
  decide

theorem MaskMatch.glowrect (d a b : Slot) : MaskMatch.Statement (.glowrect d a b) := by
  simp only [MaskMatch.Statement, encode, matchMask, show (0xFFFE00FF : Word) = wordOf 0xff 0 0 0 7 7 7 0x3f by decide, wordOf_and,
    field_and_zero]
  decide

theorem MaskMatch.colorMatrix (d a : Slot) (premult : Bool) : MaskMatch.Statement (.colorMatrix d a premult) := by
  simp only [MaskMatch.Statement, encode, matchMask, show (0xFBFFC0FF : Word) = wordOf 0xff 0 0 7 7 7 7 0x3e by decide, wordOf_and,
    field_and_zero, subBits_and_one]
  decide

theorem MaskMatch.coordMatrix (d a : Slot) (m : Mode) : MaskMatch.Statement (.coordMatrix d a m) := by
  simp only [MaskMatch.Statement, encode, matchMask, show (0xFC7FC0FF : Word) = wordOf 0xff 0 0 7 7 7 0 0x3f by decide, wordOf_and,
    field_and_zero]
  decide

theorem MaskMatch.colorRemap (d a b c e : Slot) : MaskMatch.Statement (.colorRemap d a b c e) := by
  simp only [MaskMatch.Statement, encode, matchMask, show (0xFF8000FF : Word) = wordOf 0xff 0 0 0 0 0 7 0x3f by decide, wordOf_and,
    field_and_zero]
  decide

theorem MaskMatch.coordRemap (d a b : Slot) (m : Mode) : MaskMatch.Statement (.coordRemap d a b m) := by
  simp only [MaskMatch.Statement, encode, matchMask, show (0xFC7E00FF : Word) = wordOf 0xff 0 0 0 7 7 0 0x3f by decide, wordOf_and,
    field_and_zero]
  decide

theorem MaskMatch.derive (d a : Slot) (normals : Bool) : MaskMatch.Statement (.derive d a normals) := by
  simp only [MaskMatch.Statement, encode, matchMask, show (0xFBFFC0FF : Word) = wordOf 0xff 0 0 7 7 7 7 0x3e by decide, wordOf_and,
    field_and_zero, subBits_and_one]
  decide

theorem MaskMatch.blur (d a : Slot) (wm : Wrap) : MaskMatch.Statement (.blur d a wm) := by
  simp only [MaskMatch.Statement, encode, matchMask, show (0xFE7FC0FF : Word) = wordOf 0xff 0 0 7 7 7 4 0x3f by decide, wordOf_and,
    field_and_zero, wrapBits_and]
  decide

theorem MaskMatch.ternary (d a b c : Slot) (select : Bool) : MaskMatch.Statement (.ternary d a b c select) := by
  simp only [MaskMatch.Statement, encode, matchMask, show (0xFBF000FF : Word) = wordOf 0xff 0 0 0 0 7 7 0x3e by decide, wordOf_and,
    field_and_zero, subBits_and_one]
  decide

theorem MaskMatch.paste (d a b : Slot) (m : Mode) (op : Blend) : MaskMatch.Statement (.paste d a b m op) := by
  simp only [MaskMatch.Statement, encode, matchMask, show (0x007E00FF : Word) = wordOf 0xff 0 0 0 7 7 0 0 by decide, wordOf_and,
    field_and_zero]
  decide

theorem MaskMatch.bump (d a b c e : Slot) (directional spec falloff : Bool) : MaskMatch.Statement (.bump d a b c e directional spec falloff) := by
  simp only [MaskMatch.Statement, encode, matchMask, show (0xE38000FF : Word) = wordOf 0xff 0 0 0 0 0 7 0x38 by decide, wordOf_and,
    field_and_zero, subBits_and_three]
  decide

theorem MaskMatch.linearCombine (d : Slot) : MaskMatch.Statement (.linearCombine d) := by
  simp only [MaskMatch.Statement, encode, matchMask, show (0xFFFFF8FF : Word) = wordOf 0xff 0 7 7 7 7 7 0x3f by decide, wordOf_and,
    field_and_zero]
  decide

end Sys2Proof.Laws
end

