-- ==== Sys2Proof/Laws/Race.lean ====
section
/-! SUPPORT. What a race leaves, once: the bytes it opens, and nothing else (20_memory.md R108). -/

namespace Sys2Proof.Machine

/-! ## Opened bytes -/

theorem openBytes_wf {m : Memory} (h : m.wf) (ix : Nat) (as : List Nat) : (openBytes ix as m).wf := by
  induction as generalizing m with
  | nil => exact h
  | cons a as ih => exact ih (write_wf h _ _)

theorem openBytes_inSpace {m : Memory} (h : m.inSpace) (ix : Nat) {as : List Nat} (ha : ∀ a ∈ as, a < 2 ^ 32) :
    (openBytes ix as m).inSpace := by
  induction as generalizing m with
  | nil => exact h
  | cons a as ih =>
    exact ih (write_inSpace h (ha a (by simp)) _) fun b hb => ha b (by simp [hb])

/-- Every byte but those opened reads as before. -/
theorem openBytes_other (m : Memory) (ix : Nat) {as : List Nat} {a : Nat} (h : a ∉ as) :
    (openBytes ix as m).read a = m.read a := by
  induction as generalizing m with
  | nil => rfl
  | cons b as ih =>
    simp only [List.mem_cons, not_or] at h
    exact (ih _ h.2).trans (read_write_other _ _ h.1)

/-! ## The end of a race -/

@[simp] theorem closeRace_raced (s : State) : (closeRace s).raced = [] := by
  unfold closeRace
  split <;> simp_all

theorem closeRace_none {s : State} (h : s.raced = []) : closeRace s = s := by simp [closeRace, h]

/-- Closing a race changes memory at the raced bytes, and nothing else but the model's own fields. -/
theorem closeRace_eq (s : State) :
    closeRace s = { s with mem := (closeRace s).mem, raced := [], freeIx := (closeRace s).freeIx } := by
  by_cases h : s.raced = []
  · rw [closeRace_none h, ← h]
  · simp [closeRace, h]

theorem closeRace_wf {s : State} (h : s.mem.wf) : (closeRace s).mem.wf := by
  unfold closeRace
  split
  · exact h
  · exact openBytes_wf h _ _

theorem closeRace_inSpace {s : State} (h : s.mem.inSpace) (ha : ∀ a ∈ s.raced, a < 2 ^ 32) :
    (closeRace s).mem.inSpace := by
  unfold closeRace
  split
  · exact h
  · exact openBytes_inSpace h _ ha

theorem closeRace_other {s : State} {a : Nat} (h : a ∉ s.raced) : (closeRace s).mem.read a = s.mem.read a := by
  unfold closeRace
  split
  · rfl
  · exact openBytes_other _ _ h

/-- A command that no host raced for is settled as it ended. -/
theorem settling_none {i : Instr} {s : State} (h : s.raced = []) (r : Result) : settling i s r = r := by
  cases r <;> simp [settling, settle, h]

/-- What a command's end can be after its race is settled. -/
theorem settling_next {i : Instr} {s t : State} {r : Result} (h : settling i s r = .next t) :
    ∃ u, r = .next u ∧
      ((s.raced = [] ∧ t = u) ∨ (s.raced ≠ [] ∧ firstError (registerChecks i s.snap) = none ∧ t = closeRace (openResult i u)) ∨
        (s.raced ≠ [] ∧ firstError (registerChecks i s.snap) ≠ none ∧ t = closeRace u)) := by
  cases r with
  | next u =>
    refine ⟨u, rfl, ?_⟩
    simp only [settling, settle, Host.Outcome.next.injEq] at h
    subst h
    by_cases h1 : s.raced = [] <;> by_cases h2 : firstError (registerChecks i s.snap) = none <;> simp [h1, h2]
  | fault f => cases h
  | refused f => cases h

/-! ## A racing write -/

theorem mem_bytes {e : Extent} {a : Nat} : a ∈ e.bytes ↔ e.has a := by
  simp only [Extent.bytes, List.mem_map, List.mem_range, Extent.has]
  exact ⟨fun ⟨j, hj, h⟩ => by omega, fun h => ⟨a - e.base, by omega, by omega⟩⟩

/-- A racing write records the bytes of its own that the command reads or writes. -/
theorem mem_raceWrite_raced {s : State} {e : Extent} {a : Nat} :
    a ∈ (raceWrite s e).raced ↔ a ∈ s.raced ∨ (e.has a ∧ races s ⟨a, 1⟩ = true) := by
  simp only [raceWrite, List.mem_append, List.mem_filter, mem_bytes]
  exact or_comm

/-- A racing write changes no byte but its own, and of those none that the command reads or writes. -/
theorem raceWrite_read {s : State} {e : Extent} {a : Nat} (h : e.has a → races s ⟨a, 1⟩ = true) :
    (raceWrite s e).mem.read a = s.mem.read a := by
  refine openBytes_other _ _ fun ha => ?_
  simp only [List.mem_filter, mem_bytes] at ha
  simp [h ha.1] at ha

theorem raceWrite_wf {s : State} (h : s.mem.wf) (e : Extent) : (raceWrite s e).mem.wf := openBytes_wf h _ _

theorem raceWrite_inSpace {s : State} {e : Extent} (h : s.mem.inSpace) (he : e.base + e.len ≤ 2 ^ 32) :
    (raceWrite s e).mem.inSpace := by
  refine openBytes_inSpace h _ fun a ha => ?_
  simp only [List.mem_filter, mem_bytes, Extent.has] at ha
  omega

/-! ## The bytes a command reads or writes -/

/-- A command whose register checks fail reads and writes no byte (60_exceptions.md R404). -/
theorem touches_failing {s : State} {e : Extent} {i : Instr} (h : firstError (registerChecks i s.snap) ≠ none) :
    touches s e i = false := by simp [touches, h]

end Sys2Proof.Machine
end

