-- ==== Sys2Proof/Tests/Slice0.lean ====
section
/-! SUPPORT. The model's own tests: ill-formed terms, words written out from the encoding, one step of each
command on the spec's examples, and a witness for the hypotheses of every statement. -/

set_option Elab.async false

namespace Sys2Proof.Tests

open Sys2Proof.Machine

/-! ## Well-formedness: each check refuses a term -/

theorem test_wf_bump_c : (Instr.bump 0 1 2 3 0 true false false).wf = false := by decide

theorem test_wf_bump_e : (Instr.bump 0 1 2 0 5 true false false).wf = false := by decide

theorem test_wf_bump_maps : (Instr.bump 0 1 2 3 5 true true true).wf = true := by decide

/-! ## Decoding: words put together by hand from 30_encoding.md R121 and R130 -/

/-- One word of every command (30_encoding.md R141 and 95_test_vectors.md section 2 where they have one). -/
def words1 : List (Word × Instr) :=
  [(0x00000000, .nop), (0x01800801, .smpNearest 1 ⟨true, true⟩), (0x01001802, .smpBilinear 3 ⟨false, true⟩),
   (0x02801003, .smpFiltered 2 ⟨⟨true, false⟩, true⟩), (0x00002804, .smpGradient 5), (0x00000008, .pixInit8),
   (0x00000009, .pixInit32), (0x0000000A, .pixLerp), (0x0000000B, .pixAdd)]

def words2 : List (Word × Instr) :=
  [(0x0000000C, .pixMulc), (0x0000000D, .pixOver), (0x0000000E, .pixScreen), (0x00000810, .texCopy 0 1),
   (0x18000820, .noise 0 1 false true true), (0x04000821, .cells 0 1 true), (0x00008822, .glowrect 0 1 2),
   (0x04000830, .colorMatrix 0 1 true), (0x02000831, .coordMatrix 0 1 ⟨⟨false, false⟩, true⟩)]

def words3 : List (Word × Instr) :=
  [(0x00468832, .colorRemap 0 1 2 3 4), (0x00808833, .coordRemap 0 1 2 ⟨⟨true, false⟩, false⟩),
   (0x04000834, .derive 0 1 true), (0x01803735, .blur 7 6 ⟨true, true⟩), (0x04068840, .ternary 0 1 2 3 true),
   (0x1E008841, .paste 0 1 2 ⟨⟨false, false⟩, true⟩ .over), (0x0C068842, .bump 0 1 2 3 0 true true false),
   (0x00000543, .linearCombine 5)]

def words : List (Word × Instr) := words1 ++ words2 ++ words3

theorem test_decode_words : words.all (fun p => decode p.1 == .command p.2) = true := by decide +kernel

theorem test_encode_words : words.all (fun p => encode p.2 == p.1) = true := by decide +kernel

/-- The failing words of 95_test_vectors.md section 2. -/
theorem test_decode_errors :
    [0x00000005, 0x00000100, 0x02000001, 0x00020042, 0x00100042, 0x30000041].map decode =
      [.error ⟨.opcode, 0⟩, .error ⟨.reserved, 8⟩, .error ⟨.reserved, 25⟩, .error ⟨.reserved, 17⟩,
       .error ⟨.reserved, 20⟩, .error ⟨.subop, 0⟩] := by decide

/-! ## One step of each command -/

/-- A pixel by its channels. -/
def px (r g b a : Nat) : Pixel := ⟨.ofNat 16 r, .ofNat 16 g, .ofNat 16 b, .ofNat 16 a⟩

def black : Pixel := px 0 0 0 65535
def red : Pixel := px 65535 0 0 65535
def green : Pixel := px 0 65535 0 65535
def blue : Pixel := px 0 0 65535 65535
def white : Pixel := px 65535 65535 65535 65535

/-- Memory with pixels from `base` on. -/
def pixels (base : Nat) (ps : List Pixel) (m : Memory) : Memory :=
  (ps.foldl (fun (ma : Memory × Nat) p => (putPixel ma.1 ma.2 p, ma.2 + 8)) (m, base)).1

/-- Memory with 32-bit words from `base` on. -/
def words32 (base : Nat) (ws : List Int) (m : Memory) : Memory :=
  (ws.foldl (fun (ma : Memory × Nat) v => (memWrite ma.1 ma.2 (BitVec.ofInt 32 v).toNat 4, ma.2 + 4)) (m, base)).1

/-- PARAM with some values. -/
def args (ps : List (Nat × Int)) : Vector Word 64 :=
  ps.foldl (fun v p => v.setIfInBounds p.1 (BitVec.ofInt 32 p.2)) (Vector.replicate 64 0)

/-- Slot n: a texture of `2 ^ sx` by `2 ^ sy` texels at 0x1000 * (n + 1). -/
def slots (sx sy : BitVec 4) : Vector Desc 8 :=
  #v[⟨0x200, sx, sy⟩, ⟨0x400, sx, sy⟩, ⟨0x600, sx, sy⟩, ⟨0x800, sx, sy⟩, ⟨0xA00, sx, sy⟩, ⟨0xC00, sx, sy⟩,
    ⟨0xE00, sx, sy⟩, ⟨0x1000, sx, sy⟩]

/-- An idle machine with slots of one size, PARAM values and memory. -/
def idle (sx sy : BitVec 4) (ps : List (Nat × Int)) (m : Memory) : State :=
  { State.reset with td := slots sx sy, param := args ps, mem := m }

/-- The same with slot `n` of another size. -/
def resized (n : Fin 8) (sx sy : BitVec 4) (s : State) : State :=
  { s with td := s.td.set n { (s.td[n]) with sx := sx, sy := sy } }

/-- One step on command `i`. -/
def after (i : Instr) (s : State) : Option State :=
  match step (s.withFetchWord 32 (encode i).toNat) with
  | .next t => some t
  | .fault _ => none
  | .refused _ => none

/-- STATUS and ERRINFO. -/
def ends (i : Instr) (s : State) : Option (Word × Word) := (after i s).map fun t => (statusWord t.status, t.errinfo)

/-- RES. -/
def result (i : Instr) (s : State) : Option Pixel := (after i s).map resPixel

/-- `n` pixels from address `base` on. -/
def texels (base n : Nat) (i : Instr) (s : State) : Option (List Pixel) :=
  (after i s).map fun t => (List.range n).map fun k => pixelAt t.mem (base + 8 * k)

/-- Their red channels. -/
def reds (base n : Nat) (i : Instr) (s : State) : Option (List U16) := (texels base n i s).map (·.map Pixel.r)

/-- A pixel pair's two words as PARAM values. -/
def pair (k : Nat) (p : Pixel) : List (Nat × Int) := [(k, (pairWord p.g p.r).toInt), (k + 1, (pairWord p.a p.b).toInt)]

/-- 49_control.md R395, example. -/
theorem test_nop : ends .nop (idle 0 0 [] []) = some (0x00000002, 0) := by decide +kernel

/-- The grid of 95_test_vectors.md: texel (x, y) = (1000x + 100y, 1000x, 100y, 65535), 4 by 4, in slot 1. -/
def grid (ps : List (Nat × Int)) : State :=
  idle 2 2 ps (pixels 0x2000 ((List.range 16).map fun k =>
    px (1000 * (k % 4) + 100 * (k / 4)) (1000 * (k % 4)) (100 * (k / 4)) 65535) [])

/-- R200, example, and its corner x = -1. -/
theorem test_smp_nearest :
    result (.smpNearest 1 ⟨false, false⟩) (grid [(0, 3 * 2 ^ 21), (1, 5 * 2 ^ 21)]) = some (px 1200 1000 200 65535) ∧
    result (.smpNearest 1 ⟨false, false⟩) (grid [(0, -1)]) = some (px 3000 3000 0 65535) := by decide +kernel

/-- R201, example: wrapping and clamping at x = 0. -/
theorem test_smp_bilinear :
    result (.smpBilinear 1 ⟨false, false⟩) (grid [(1, 2 ^ 21)]) = some (px 1500 1500 0 65535) ∧
    result (.smpBilinear 1 ⟨true, false⟩) (grid [(1, 2 ^ 21)]) = some black := by decide +kernel

/-- R202, example. -/
theorem test_smp_filtered :
    result (.smpFiltered 1 ⟨⟨false, false⟩, true⟩) (grid [(0, 2 ^ 22), (1, 2 ^ 22)]) = some (px 550 500 50 65535) := by
  decide +kernel

/-- The 4 by 1 ramp of R203's example, in slot 1. -/
def ramp4 (ps : List (Nat × Int)) : State := idle 2 0 ps (pixels 0x2000 [black, red, green, blue] [])

/-- R203, example: between texels, and at the top. -/
theorem test_smp_gradient :
    result (.smpGradient 1) (ramp4 [(0, 2 ^ 22 + 2 ^ 21)]) = some (px 32767 32767 0 65535) ∧
    result (.smpGradient 1) (ramp4 [(0, 2 ^ 24)]) = some blue := by decide +kernel

/-- R170, example. -/
theorem test_pix_init8 : result .pixInit8 (idle 0 0 [(0, 0x800080FF)] []) = some (px 32896 16513 0 32896) := by
  decide +kernel

/-- R171, example. -/
theorem test_pix_init32 : result .pixInit32 (idle 0 0 [(0, 0x80FF8000)] []) = some (px 32896 16513 0 32896) := by
  decide +kernel

/-- R172, corner: a decreasing channel rounds down; E_PARAM above 65536. -/
theorem test_pix_lerp :
    result .pixLerp (idle 0 0 ([(0, 32768)] ++ pair 1 white ++ pair 3 (px 0 0 0 0)) []) = some (px 32767 32767 32767 32767) ∧
    ends .pixLerp (idle 0 0 [(0, 65537)] []) = some (0x00000706, 0) := by decide +kernel

/-- R173, example. -/
theorem test_pix_add :
    result .pixAdd (idle 0 0 (pair 1 (px 40000 100 0 65535) ++ pair 3 (px 40000 200 0 1)) []) =
      some (px 65535 300 0 65535) := by decide +kernel

/-- R174, example. -/
theorem test_pix_mulc :
    result .pixMulc (idle 0 0 (pair 1 (px 65535 32768 0 65535) ++ pair 3 (px 32768 32768 65535 65535)) []) =
      some (px 32768 16384 0 65535) := by decide +kernel

/-- R175, example. -/
theorem test_pix_over :
    result .pixOver (idle 0 0 (pair 1 red ++ pair 3 (px 0 32768 0 32768)) []) = some (px 32767 32768 0 65535) := by
  decide +kernel

/-- R176, example. -/
theorem test_pix_screen :
    result .pixScreen (idle 0 0 (pair 1 (px 32768 0 65535 32768) ++ pair 3 (px 32768 65535 0 32768)) []) =
      some (px 49152 65535 65535 49152) := by decide +kernel

/-- R204, example: the bytes 01 00 02 00 03 00 04 00, and E_MISMATCH naming A. -/
theorem test_tex_copy :
    (after (.texCopy 0 1) (idle 0 0 [] (pixels 0x2000 [px 1 2 3 4] []))).map (fun t => memRead t.mem 0x1000 8) =
      some 0x0004000300020001 ∧
    ends (.texCopy 0 1) (resized 1 1 0 (idle 0 0 [] [])) = some (0x00000606, 1) := by decide +kernel

/-- R230 and R231: the first keys. -/
theorem test_lfsr_keys :
    (List.range 4).map (lfsrKey 0x2545F491 0x80200003) = [0x2545F491, 0x9282FA4B, 0xC9617D26, 0x64B0BE93] := by
  decide

/-- R238: the first bad PARAM is named, and a failing NOISE builds no table. -/
theorem test_noise_param :
    ends (.noise 0 1 false false false) (idle 0 0 [(0, 1), (1, 1), (2, 1), (3, 0)] []) = some (0x00000706, 3) ∧
    ends (.noise 0 1 false false false) (idle 0 0 [(0, 13), (2, 0)] []) = some (0x00000706, 0) := by decide +kernel

/-- R232 to R237 by hand for a table of zeros: every lattice value is -65536, so white noise indexes the
gradient at 2^23 - 2^23 = 0, and with ABS at 2^24. -/
theorem test_noise_zero_table :
    let s := { ramp4 [(0, 1), (1, 1), (2, 1), (3, 65536)] with
      status := statusPermBuilt State.reset.status, perm := #[] }
    texels 0x1000 4 (.noise 0 1 false false false) s = some [black, black, black, black] ∧
    texels 0x1000 4 (.noise 0 1 true false false) s = some [blue, blue, blue, blue] := by decide +kernel

/-- One cell record in slot 2's bytes, its centre on the pixel centre (R246, corner). -/
def oneCell : Memory := pixels 0x3008 [px 65535 32768 0 65535] (words32 0x3000 [0x2000, 0x2000] (pixels 0x2000 [white] []))

theorem test_cells :
    texels 0x1000 1 (.cells 0 1 false) (idle 0 0 [(0, 0x3000), (1, 1), (2, 65536)] oneCell) =
      some [px 65535 32768 0 65535] ∧
    ends (.cells 0 1 true) (idle 0 0 [(0, 0x3004), (1, 1)] oneCell) = some (0x00000906, 1) := by decide +kernel

/-- R248 to R252 by hand, 2 by 2: |u| = |v| = 0.5 at every pixel. With RECTU = RECTV = 1.0 the gradient's
texel 0; with 0.25, du = 21845, d = 14563, the gradient 36409 of white. -/
theorem test_glowrect :
    let s := fun r : Int => resized 2 1 0 (idle 1 1 [(0, 32768), (1, 32768), (2, 32768), (5, 32768), (6, r), (7, r)]
      (pixels 0x2000 [black, black, black, black] (pixels 0x3000 [white, px 0 0 0 0] [])))
    texels 0x1000 4 (.glowrect 0 1 2) (s 65536) = some [white, white, white, white] ∧
    texels 0x1018 1 (.glowrect 0 1 2) (s 16384) = some [px 36409 36409 36409 65535] := by decide +kernel

/-- R280, example, without and with PREMULT. -/
theorem test_color_matrix :
    let s := idle 0 0 [(16, 131072), (21, 131072), (26, 131072), (31, 65536)] (pixels 0x2000 [px 40000 10000 0 50000] [])
    texels 0x1000 1 (.colorMatrix 0 1 false) s = some [px 65535 20000 0 50000] ∧
    texels 0x1000 1 (.colorMatrix 0 1 true) s = some [px 50000 20000 0 50000] := by decide +kernel

/-- The grid's first row alone, 4 by 1. -/
def row4 (ps : List (Nat × Int)) : State :=
  idle 2 0 ps (pixels 0x2000 ([0, 1000, 2000, 3000].map fun r => px r r 0 65535) [])

/-- R285, example's row 0: a shift by one texel. -/
theorem test_coord_matrix :
    reds 0x1000 4 (.coordMatrix 0 1 ⟨⟨false, false⟩, false⟩) (row4 [(16, 65536), (19, 16384), (21, 65536)]) =
      some [1000, 2000, 3000, 0] := by decide +kernel

/-- R290: a transparent pixel passes (example); an opaque one is the maps' sum (three 1 x 1 maps, by hand). -/
theorem test_color_remap :
    texels 0x1000 1 (.colorRemap 0 1 2 3 4) (idle 0 0 [] (pixels 0x2000 [px 5 6 7 0] [])) = some [px 5 6 7 0] ∧
    texels 0x1000 1 (.colorRemap 0 1 2 3 4) (idle 0 0 [] (pixels 0x2000 [white] (pixels 0x3000 [px 1000 1 0 9]
      (pixels 0x4000 [px 0 2000 0 9] (pixels 0x5000 [px 2 0 3000 9] []))))) = some [px 1002 2001 3000 65535] := by
  decide +kernel

/-- R295, example's row 0. -/
theorem test_coord_remap :
    reds 0x1000 4 (.coordRemap 0 1 2 ⟨⟨false, false⟩, false⟩)
      { row4 [(0, 32768)] with
        mem := pixels 0x3000 (List.replicate 4 (px 49152 32768 0 65535)) (row4 []).mem } =
      some [1000, 2000, 3000, 0] := by decide +kernel

/-- R300, example, gradient and normals. -/
theorem test_derive :
    let s := idle 2 0 [(0, 65536)] (pixels 0x2000 ([0, 16384, 32768, 65535].map fun r => px r 0 0 65535) [])
    reds 0x1000 4 (.derive 0 1 false) s = some [20480, 40960, 45055, 24575] ∧
    (texels 0x1000 4 (.derive 0 1 true) s).map (·.head?) = some (some (px 44273 32768 63449 65535)) := by
  decide +kernel

/-- R307, examples: wrapping, and clamped at the edge. -/
theorem test_blur :
    reds 0x1000 8 (.blur 0 1 ⟨false, false⟩) (idle 3 0 [(0, 16384), (2, 1)] (pixels 0x2018 [red] [])) =
      some [0, 0, 16384, 32768, 16384, 0, 0, 0] ∧
    reds 0x1000 8 (.blur 0 1 ⟨true, false⟩) (idle 3 0 [(0, 16384), (2, 1)] (pixels 0x2000 [red] [])) =
      some [49151, 16384, 0, 0, 0, 0, 0, 0] := by decide +kernel

/-- R330, example. -/
theorem test_ternary :
    let s := idle 1 0 [] (pixels 0x2000 [red, blue] (pixels 0x3000 [green, px 0 0 0 0]
      (pixels 0x4000 [px 32768 0 0 0, px 16384 0 0 0] [])))
    texels 0x1000 2 (.ternary 0 1 2 3 false) s = some [px 32767 32768 0 65535, px 0 0 49151 49151] ∧
    texels 0x1000 2 (.ternary 0 1 2 3 true) s = some [green, blue] := by decide +kernel

/-- R336: the whole texture as the parallelogram (30_encoding.md R142), snippet and destination 2 by 2. -/
theorem test_paste :
    texels 0x1000 4 (.paste 0 1 2 ⟨⟨false, false⟩, false⟩ .over) (idle 1 1 [(2, 65536), (5, 65536)]
      (pixels 0x2000 [black, black, black, black] (pixels 0x3000 [red, green, blue, white] []))) =
      some [red, green, blue, white] := by decide +kernel

/-- R340 to R351: the example of each blend mode. -/
theorem test_blend :
    [Blend.add, .sub, .mulc, .min, .max, .setalpha, .prealpha, .over, .multiply, .screen, .darken, .lighten].map
        (fun op => blend op (px 40000 20000 10000 50000) (px 30000 30000 0 30000)) =
      [px 65535 50000 10000 65535, px 10000 0 10000 20000, px 18311 9155 0 22889, px 30000 20000 0 30000,
       px 40000 30000 10000 50000, px 40000 20000 10000 30000, px 18311 9155 4578 30000, px 51689 40845 5422 57111,
       px 47111 27111 5422 57111, px 51689 40845 10000 57111, px 47111 27111 5422 57111, px 51689 40845 10000 57111] := by
  decide +kernel

/-- R363, example: directional, with and without a specular map. -/
theorem test_bump :
    let m := pixels 0x2000 [px 65535 32768 0 65535, white]
      (pixels 0x3000 [px 32768 32768 65535 65535, px 55938 32768 55938 65535] (pixels 0x4000 [px 0 0 0 0, white] []))
    texels 0x1000 2 (.bump 0 1 2 0 0 true false false) (idle 1 0 ([(5, -65536)] ++ pair 8 white) m) =
      some [px 65533 32767 0 65533, px 46339 46339 46339 46339] ∧
    texels 0x1000 2 (.bump 0 1 2 3 0 true true false)
      (idle 1 0 ([(5, -65536)] ++ pair 8 (px 32768 32768 32768 32768)) m) =
      some [px 32767 32767 32767 32767, px 23170 23170 23170 23170] := by decide +kernel

/-- Two records for the 4 by 1 texture of slot 1 (R372, example). -/
def twoInputs : Memory :=
  words32 0x3000 [0x2000, 2, 32768, 0, 0, 0, 0x2000, 2, 32768, 2 ^ 22, 0, 0] (ramp4 []).mem

theorem test_linear_combine :
    texels 0x1000 4 (.linearCombine 0) (idle 2 0 [(0, 0x3000), (1, 2)] twoInputs) =
      some [px 32768 0 0 65535, px 32768 32768 0 65535, px 0 32768 32768 65535, px 0 0 32768 65535] ∧
    texels 0x1000 1 (.linearCombine 0) (idle 0 0 ([(2, 65536)] ++ pair 3 (px 1000 2000 3000 4000)) []) =
      some [px 1000 2000 3000 4000] := by decide +kernel

/-! ## Witnesses: states and operands that meet the hypotheses of each statement -/

/-- `Ready` as a computation. -/
def readyB (i : Instr) (s : State) : Bool :=
  (usedSlots i).all (fun n => (slotTex s.snap n).sizeOk && (slotTex s.snap n).fits) &&
  (match destSlot i with
    | some d => (compatSlots i).all fun n => (slotTex s.snap d).compatible (slotTex s.snap n)
    | none => true) &&
  s.port == .ok && !reachesWindow s.cfg (footprint s.snap s.mem i)

theorem ready_of_readyB {i : Instr} {s : State} (h : readyB i s = true) : Ready i s := by
  simp only [readyB, Bool.and_eq_true, List.all_eq_true, beq_iff_eq, Bool.not_eq_true'] at h
  refine ⟨h.1.1.1, fun d hd => ?_, h.1.2, h.2⟩
  have h2 := h.1.1.2
  rw [hd] at h2
  simpa [SameSize] using h2

/-- `SlotOk` as a computation. -/
def slotOkB (s : State) (ns : List Slot) : Bool := ns.all fun n => (slotTex s.snap n).sizeOk && (slotTex s.snap n).fits

theorem slotOk_of_slotOkB {s : State} {ns : List Slot} (h : slotOkB s ns = true) : ∀ n ∈ ns, SlotOk s.snap n := by
  simpa [slotOkB, List.all_eq_true, SlotOk] using h

/-- A machine that has just accepted `i`: slots of one size, apart from one another. -/
def busy (i : Instr) (sx sy : BitVec 4) (ps : List (Nat × Int)) (m : Memory) : State := accept (idle sx sy ps m) (encode i)

/-- The commands without a PARAM range, on 2 by 2 textures. -/
def plainCommands : List Instr :=
  [.smpNearest 1 ⟨false, true⟩, .smpBilinear 1 ⟨true, false⟩, .smpFiltered 1 ⟨⟨true, true⟩, true⟩,
   .smpFiltered 1 ⟨⟨true, true⟩, false⟩, .smpGradient 1, .texCopy 0 1, .texCopy 1 1, .glowrect 0 1 2,
   .glowrect 0 0 2, .colorRemap 0 1 2 3 4, .colorRemap 0 0 2 3 4]

def plainCommands2 : List Instr :=
  [.coordRemap 0 1 2 ⟨⟨true, true⟩, true⟩, .coordRemap 2 1 2 ⟨⟨true, true⟩, false⟩, .derive 0 1 true, .derive 0 1 false,
   .ternary 0 1 2 3 true, .ternary 0 0 2 3 false, .paste 0 1 2 ⟨⟨false, false⟩, true⟩ .lighten,
   .bump 0 1 2 0 0 true false false, .bump 0 1 2 3 4 false true true]

theorem witness_ready_plain :
    ((plainCommands ++ plainCommands2).all fun i => readyB i (busy i 1 1 [] [])) = true := by decide +kernel

theorem witness_canonical : MemoryCanonical (busy .nop 1 1 [] []) := ⟨by decide, by decide⟩

/-- Textures apart from one another, and two slots that hold the same texture. -/
theorem witness_apart :
    (slotTex (busy .nop 1 1 [] []).snap 0).extent.meets (slotTex (busy .nop 1 1 [] []).snap 1).extent = false ∧
    slotTex (busy .nop 1 1 [] []).snap 1 = slotTex (busy .nop 1 1 [] []).snap 1 ∧
    InTex (slotTex (busy .nop 1 1 [] []).snap 0) 1 1 := by
  refine ⟨by decide +kernel, rfl, ?_, ?_⟩ <;> decide +kernel

theorem witness_EncodeOfDecode : decode 0x0C068842 = .command (.bump 0 1 2 3 0 true true false) := by decide

theorem witness_UnusedBitsMustBeZero :
    opField 0x80000010 = opField (matchMask (.texCopy 0 0)).1 ∧
    (0x80000010 : Word) &&& (matchMask (.texCopy 0 0)).2 ≠ (matchMask (.texCopy 0 0)).1 ∧
    (0x00003F10 : Word) &&& (matchMask (.texCopy 0 0)).2 = (matchMask (.texCopy 0 0)).1 := by decide

/-- An unlisted OP; BUMP with C alone, with E alone and with both right; PASTE at 12 and at 11. -/
theorem witness_OtherDecodeErrors :
    (∀ i : Instr, opField 0x05 ≠ opField (matchMask i).1) ∧
    ((0x00020042 : Word) &&& 0xE38000FF = 0x42 ∧ subBit 0x00020042 1 = false ∧ cField 0x00020042 ≠ 0) ∧
    ((0x00100042 : Word) &&& 0xE38000FF = 0x42 ∧ cField 0x00100042 = 0 ∧ subBit 0x00100042 2 = false ∧
      eField 0x00100042 ≠ 0) ∧
    ((0x18120042 : Word) &&& 0xE38000FF = 0x42 ∧ subBit 0x18120042 1 = true ∧ subBit 0x18120042 2 = true) ∧
    ((0x30000041 : Word) &&& 0x007E00FF = 0x41 ∧ (subField 0x30000041).toNat = 12) ∧
    ((0x2C000041 : Word) &&& 0x007E00FF = 0x41 ∧ (subField 0x2C000041).toNat = 11) := by
  refine ⟨fun i => ?_, by decide, by decide, by decide, by decide, by decide⟩
  cases i <;> simp only [matchMask] <;> decide

theorem witness_StepRunsDecodedCommand :
    (busy .nop 1 1 [] []).rst = false ∧ (busy .nop 1 1 [] []).status.busy = true ∧
    decode (busy .nop 1 1 [] []).snap.cmd = .command .nop ∧ (busy .nop 1 1 [] []).inputs = [] ∧
    (busy .nop 1 1 [] []).raced = [] ∧ decode (accept (idle 1 1 [] []) 0x100).snap.cmd = .error ⟨.reserved, 8⟩ ∧
    (let t := { accept (idle 1 1 [] []) 0x100 with inputs := [.engine] };
      t.inputs = .engine :: [] ∧ t.status.busy = true ∧ t.raced = []) := by decide +kernel

/-- An idle and a busy machine that the host writes CMD of next. -/
theorem witness_CmdWriteRunsTheCommandOrOverruns :
    let s := { idle 1 1 [] [] with inputs := [.busWrite 0x100000010 .w32 0x00000810, .engine] }
    let b := { busy .nop 1 1 [] [] with inputs := s.inputs }
    s.rst = false ∧ s.status.busy = false ∧ s.inputs = [.busWrite (regBase s.cfg + 0x010) .w32 0x00000810, .engine] ∧
    decode ((0x00000810 : BitVec 64).setWidth 32) = .command (.texCopy 0 1) ∧
    b.rst = false ∧ b.status.busy = true ∧ b.inputs = [.busWrite (regBase b.cfg + 0x010) .w32 0x00000810, .engine] := by
  decide +kernel

/-- Reset, and a step from it, meet the hypotheses of the invariants' statements. -/
theorem witness_StepKeeps :
    MemoryCanonical State.reset ∧ MemoryInSpace State.reset ∧ RaceFieldsRight State.reset ∧ TableRight State.reset ∧
    ErrorFieldsRight State.reset ∧ step State.reset = .next State.reset := by
  refine ⟨⟨by decide, by decide⟩, ⟨?_, ?_⟩, ⟨fun _ => rfl, fun _ => rfl⟩, ?_, ?_, rfl⟩
  · intro c h; cases h
  · intro a h; cases h
  · intro h; cases h
  · exact ⟨fun _ => ⟨rfl, rfl⟩, by decide⟩

/-- A machine that keeps an error over a step. -/
theorem witness_StepKeepsErrorFields :
    let s := raiseError (idle 1 1 [] []) busError
    s.status.err = true ∧ step s = .next s := ⟨rfl, rfl⟩

theorem witness_ResetsReturnResetValues :
    let r := fun i => { idle 1 1 [] [] with rst := true, inputs := [i] }
    (0x80000000 : Word).getLsbD 31 = true ∧ (busy (.texCopy 0 1) 1 1 [] []).status.busy = true ∧
    (idle 1 1 [] []).status.busy = false ∧
    decode (busy (.texCopy 0 1) 1 1 [] []).snap.cmd = .command (.texCopy 0 1) ∧ destSlot (.texCopy 0 1) = some 0 ∧
    decode (busy .nop 1 1 [] []).snap.cmd = .command .nop ∧ destSlot .nop = none ∧
    (r (.busWrite 0x100000FFC .w32 1)).rst = true ∧
    (r (.busWrite 0x100000FFC .w32 1)).inputs = [.busWrite (regBase (r .engine).cfg + 0xFFC) .w32 1] ∧
    (r .engine).inputs = [.engine] ∧ (r (.resetPin false)).inputs = [.resetPin false] ∧
    (let s := { busy (.texCopy 0 1) 1 1 [] [] with inputs := [.resetPin true] };
      s.inputs = [.resetPin true] ∧ s.status.busy = true) ∧
    decode (accept (idle 1 1 [] []) 0x100).snap.cmd = .error ⟨.reserved, 8⟩ ∧
    ({ r .engine with inputs := [] } : State).inputs = [] := by decide +kernel

/-- Whether a command answers a next state of which `p` holds. -/
def answers (r : Result) (p : State → Bool) : Bool :=
  match r with
  | .next t => p t
  | .fault _ => false
  | .refused _ => false

/-- Commands that answer a next state: one that ends normally, and one with an error before its body; ERR = 0
before them. -/
theorem witness_commands_answer :
    let s := busy (.texCopy 0 1) 1 1 [] []
    reachesWindow s.cfg (footprint s.snap s.mem (.texCopy 0 1)) = false ∧ s.port ≠ .bodyError ∧ s.status.err = false ∧
    answers (exec (.texCopy 0 1) s) (fun t => !t.status.err) = true ∧
    answers (exec (.blur 0 1 ⟨true, true⟩) (busy .nop 1 1 [(2, 256)] [])) (fun t => t.status.err) = true := by
  refine ⟨by decide +kernel, by decide, by decide, by decide +kernel, by decide +kernel⟩

/-- Under a port that fails in the body: commands that would end normally, with and without a destination,
and one that a check stops. -/
theorem witness_BusErrorLeavesOnlyTheDestinationOpen :
    let b := { busy (.texCopy 0 1) 1 1 [] [] with port := .bodyError }
    usedSlots (.smpNearest 1 ⟨false, false⟩) ≠ [] ∧ usedSlots (.texCopy 0 1) ≠ [] ∧ b.port = .bodyError ∧
    b.status.err = false ∧ answers (exec (.texCopy 0 1) { b with port := .ok }) (fun u => !u.status.err) = true ∧
    answers (exec (.smpNearest 1 ⟨false, false⟩) { b with port := .ok }) (fun u => !u.status.err) = true ∧
    answers (exec (.blur 0 1 ⟨true, true⟩) { busy .nop 1 1 [(2, 256)] [] with port := .ok }) (fun u => u.status.err) = true ∧
    destSlot (.smpNearest 1 ⟨false, false⟩) = none ∧ destSlot (.texCopy 0 1) = some 0 ∧ slotOkB b [1] = true ∧
    reachesWindow b.cfg [(slotTex b.snap 1).extent] = false := by
  refine ⟨by decide, by decide, rfl, by decide, ?_, ?_, ?_, rfl, rfl, ?_, ?_⟩ <;> decide +kernel

/-- The second used slot of two fails on its width, and on its extent. -/
theorem witness_SlotErrorsInFieldOrder :
    let s := accept (resized 1 13 0 (idle 1 1 [] [])) 0x810
    let e := accept { idle 12 12 [] [] with td := (slots 12 12).set 1 ⟨0x1FFFFFFF, 12, 12⟩ } 0x810
    usedSlots (.texCopy 0 1) = [0] ++ 1 :: [] ∧ slotOkB s [0] = true ∧ 12 < (slotTex s.snap 1).sx ∧
    slotOkB e [0] = true ∧ (slotTex e.snap 1).sx ≤ 12 ∧ (slotTex e.snap 1).sy ≤ 12 ∧
    2 ^ 32 < (slotTex e.snap 1).base + 8 * (slotTex e.snap 1).n := by decide +kernel

theorem witness_MismatchNamesTheFirstSlot :
    let s := accept (resized 2 1 2 (idle 1 1 [] [])) 0
    destSlot (.ternary 0 1 2 3 true) = some 0 ∧ slotOkB s (usedSlots (.ternary 0 1 2 3 true)) = true ∧
    compatSlots (.ternary 0 1 2 3 true) = [1] ++ 2 :: [3] ∧ (slotTex s.snap 0).compatible (slotTex s.snap 1) = true ∧
    (slotTex s.snap 2).sy ≠ (slotTex s.snap 0).sy := by decide +kernel

/-- The snapshot of PARAM values. -/
def withArgs (ps : List (Nat × Int)) (m : Memory) : State := busy .nop 1 1 ps m

/-- Each range at its ends: just outside fails, just inside goes on to the next. -/
theorem witness_ParamErrorsNameTheFirst :
    param (withArgs [(0, -1)] []).snap 0 < 0 ∧ 65536 < param (withArgs [(0, 65537)] []).snap 0 ∧
    slotOkB (withArgs [] []) [0, 1] = true ∧ 12 < param (withArgs [(0, 13)] []).snap 0 ∧
    (let k := (withArgs [(0, 12), (1, -1)] []).snap; param k 0 ≤ 12 ∧ param k 1 < 0) ∧
    (let k := (withArgs [(1, 12)] []).snap; 0 ≤ param k 0 ∧ param k 1 ≤ 12 ∧ param k 2 < 1) ∧
    (let k := (withArgs [(2, 17)] []).snap; 0 ≤ param k 0 ∧ 0 ≤ param k 1 ∧ 16 < param k 2) ∧
    (let k := (withArgs [(2, 16)] []).snap; 1 ≤ param k 2 ∧ param k 2 ≤ 16 ∧ param k 3 ≤ 0) ∧
    255 < param (withArgs [(2, 256)] []).snap 2 ∧
    (slotTex (withArgs [] []).snap 0).compatible (slotTex (withArgs [] []).snap 1) = true ∧
    param (withArgs [(16, -8323073)] []).snap 16 < -127 * 65536 ∧
    (let k := (withArgs [(30, 8323072), (31, 8323073)] []).snap; param k 30 ≤ 127 * 65536 ∧ 127 * 65536 < param k 31) := by
  decide +kernel

/-- Counts, weights and pointers just outside and just inside their ranges. -/
theorem witness_ListParamErrors :
    slotOkB (withArgs [] []) [0, 1] = true ∧ param (withArgs [] []).snap 1 < 1 ∧
    param (withArgs [(1, 1)] []).snap 1 < 2 ∧ 256 < param (withArgs [(1, 257)] []).snap 1 ∧
    (let k := (withArgs [(0, 0x3004), (1, 1)] []).snap; 1 ≤ param k 1 ∧ param k 1 ≤ 256 ∧ paramU k 0 % 8 ≠ 0) ∧
    (let k := (withArgs [(0, -8), (1, 2)] []).snap; 2 ≤ param k 1 ∧ 2 ^ 32 < paramU k 0 + 16 * param k 1) ∧
    param (withArgs [(1, -1)] []).snap 1 < 0 ∧ 255 < param (withArgs [(1, 256)] []).snap 1 ∧
    (let k := (withArgs [(1, 255), (2, 8323073)] []).snap; param k 1 ≤ 255 ∧ 127 * 65536 < param k 2) ∧
    param (withArgs [(2, -8323073)] []).snap 2 < -127 * 65536 ∧
    (let k := (withArgs [(0, 2), (1, 1), (2, 8323072)] []).snap; param k 2 ≤ 127 * 65536 ∧ 0 < param k 1 ∧ paramU k 0 % 4 ≠ 0) ∧
    (let k := (withArgs [(0, -20), (1, 1), (2, -8323072)] []).snap;
      -127 * 65536 ≤ param k 2 ∧ 2 ^ 32 < paramU k 0 + 24 * param k 1) := by decide +kernel

/-- Lists of two records, the last of which the port does not read. -/
theorem witness_list_read_error :
    (let s := { withArgs [(0, -32), (1, 2)] [] with port := .listError 1 };
      2 ≤ param s.snap 1 ∧ paramU s.snap 0 % 8 = 0 ∧ paramU s.snap 0 + 16 * param s.snap 1 ≤ 2 ^ 32 ∧
      reachesWindow s.cfg [cellList s.snap] = false ∧ s.port = .listError 1 ∧ (1 : Int) < param s.snap 1) ∧
    (let s := { withArgs [(0, 0x3000), (1, 2)] [] with port := .listError 1 };
      0 < param s.snap 1 ∧ paramU s.snap 0 % 4 = 0 ∧ paramU s.snap 0 + 24 * param s.snap 1 ≤ 2 ^ 32 ∧
      reachesWindow s.cfg [inputList s.snap] = false ∧ s.port = .listError 1 ∧
      firstError (recordChecks 0 (inputRecord s.mem (paramU s.snap 0) 0)) = none) := by decide +kernel

/-- A list of two records at 0x3000, the second with the given BASE, SIZE, W and last word. -/
def secondRecord (base size weight last : Int) : State :=
  withArgs [(0, 0x3000), (1, 2)] (words32 0x3000 [0x2000, 2, 0, 0, 0, 0, base, size, weight, 0, 0, last] [])

/-- The second record, as the statement reads it. -/
def second (s : State) : InputRecord := inputRecord s.mem (paramU s.snap 0) 1

/-- Each check of a record fails on the second of two, those before it passing. -/
theorem witness_RecordErrorsInOrder :
    let s := secondRecord 0x2000 2 0 0
    (slotOkB s [0] = true ∧ s.port = .ok ∧ reachesWindow s.cfg [inputList s.snap] = false ∧
      paramU s.snap 0 % 4 = 0 ∧ paramU s.snap 0 + 24 * param s.snap 1 ≤ 2 ^ 32 ∧ (1 : Int) < param s.snap 1 ∧
      firstError (recordChecks 0 (inputRecord s.mem (paramU s.snap 0) 0)) = none) ∧
    (second (secondRecord 0x2000 0x12 0 0)).size &&& 0xFFF8F0F0 ≠ 0 ∧
    (second (secondRecord 0x2000 2 0 1)).last ≠ 0 ∧
    12 < ((second (secondRecord 0x2000 0xD00 0 0)).size.extractLsb' 8 4).toNat ∧
    (second (secondRecord 0x2004 2 0 0)).base.toNat % 8 ≠ 0 ∧
    2 ^ 32 < (second (secondRecord (-8) 1 0 0)).base.toNat + 8 * 2 ^ (1 + 0) ∧
    127 * 65536 < (second (secondRecord 0x2000 2 8323073 0)).weight.toInt := by decide +kernel

theorem witness_BusAccessesTheRegisterMap :
    let r := fun off w => { idle 1 1 [] [] with inputs := [Input.busRead (0x100000000 + off) w] }
    let w := fun off w => { idle 1 1 [] [] with inputs := [Input.busWrite (0x100000000 + off) w 1] }
    (r 0xFFC .w32).rst = false ∧ (r 0xFFC .w32).inputs = [.busRead (regBase (r 0 .w8).cfg + 0xFFC) .w32] ∧
    (r 2 .w32).inputs = [.busRead (regBase (r 0 .w8).cfg + 2) .w32] ∧
    (r 0 .w8).inputs = [.busRead (regBase (r 0 .w8).cfg + 0) .w8] ∧
    (w 0x1FC .w32).rst = false ∧ (w 0x1FC .w32).inputs = [.busWrite (regBase (r 0 .w8).cfg + 0x1FC) .w32 1] ∧
    (w 0xFFD .w32).inputs = [.busWrite (regBase (r 0 .w8).cfg + 0xFFD) .w32 1] ∧
    (w 0 .w64).inputs = [.busWrite (regBase (r 0 .w8).cfg + 0) .w64 1] := by decide +kernel

theorem witness_RegisterWritesReadBack : (0x7FFFFFFF : Word).getLsbD 31 = false := by decide

theorem witness_InterruptFollowsStatus :
    ({ idle 1 1 [] [] with ctrl := ⟨true, true⟩ } : State).ctrl.ieDone = true ∧ (0xE : Word) &&& 0xE = 0xE ∧
    (0x7FFFFFFC : Word) &&& 0x80000003 = 0 := by decide

/-- The last word of the memory space, written and read. -/
theorem witness_HostWritesLittleEndian :
    let s := { idle 1 1 [] [] with inputs := [.busWrite 0xFFFFFFF8 .w64 1, .busRead 0xFFFFFFF8 .w64] }
    s.status.busy = false ∧ inRegBlock s.cfg 0xFFFFFFF8 = false ∧ 0xFFFFFFF8 + widthBytes .w64 ≤ 2 ^ 32 ∧
    reachesWindow s.cfg [⟨0xFFFFFFF8, widthBytes .w64⟩] = false := by decide +kernel

theorem witness_TexelBytes : Memory.wf (pixels 0x1000 [white] []) := ⟨by decide +kernel, by decide +kernel⟩

/-- Accesses of a running command's bytes and of those beside them: the source of a copy to its last byte,
the texel of a sample, row 0 of a gradient, a command whose slot fails, and no command. -/
theorem witness_RacingAccessesTakeAnyValue :
    let s := { busy (.derive 0 1 false) 1 1 [] [] with inputs := [.busWrite 0x201F .w8 1] }
    let n := busy (.smpNearest 1 ⟨false, false⟩) 1 1 [(0, 2 ^ 23)] []
    let g := busy (.smpGradient 1) 1 1 [] []
    let f := accept (resized 1 13 0 (idle 1 1 [] [])) (encode (.derive 0 1 false))
    (s.status.busy = true ∧ decode s.snap.cmd = .command (.derive 0 1 false) ∧ slotOkB s [0, 1] = true ∧
      (slotTex s.snap 0).compatible (slotTex s.snap 1) = true ∧ inRegBlock s.cfg 0x201F = false ∧
      0x201F + widthBytes .w8 ≤ 2 ^ 32 ∧ reachesWindow s.cfg [⟨0x201F, widthBytes .w8⟩] = false) ∧
    (races s ⟨0x201F, 1⟩ = true ∧ races s ⟨0x2020, 1⟩ = false ∧ races s ⟨0x1000, 1⟩ = true) ∧
    (decode n.snap.cmd = .command (.smpNearest 1 ⟨false, false⟩) ∧ races n ⟨0x2008, 1⟩ = true ∧
      races n ⟨0x2007, 1⟩ = false ∧ races n ⟨0x2010, 8⟩ = false) ∧
    (decode g.snap.cmd = .command (.smpGradient 1) ∧ races g ⟨0x2000, 1⟩ = true ∧ races g ⟨0x2010, 8⟩ = false) ∧
    (decode f.snap.cmd = .command (.derive 0 1 false) ∧ (slotTex f.snap 1).sizeOk = false ∧
      races f ⟨0x1000, 8⟩ = false) ∧
    races (idle 1 1 [] []) ⟨0x1000, 8⟩ = false := by decide +kernel

/-- A sample's list of raced bytes: the racing write keeps memory, and the command ends. -/
theorem witness_raced_command :
    let s := { busy (.smpNearest 1 ⟨false, false⟩) 1 1 [] (pixels 0x2000 [white] []) with
      inputs := [.busWrite 0x2000 .w8 0] }
    answers (step s) (fun t =>
      t.raced == [0x2000] && t.mem.read 0x2000 == 255 && t.inputs == [] && !t.rst && t.status.busy &&
      answers (exec (.smpNearest 1 ⟨false, false⟩) t) (fun u => !u.status.err) &&
      answers (step t) (fun u => u.raced == [] && u.status.done && !u.status.busy)) = true := by decide +kernel

theorem witness_UnpremultiplyGivesTheInput : (1 : BitVec 8) ≠ 0 ∧ (0 : BitVec 8) = 0 := by decide

theorem witness_PixLerpInterpolates :
    (let k := (withArgs [(0, 0)] []).snap; 0 ≤ param k 0 ∧ param k 0 ≤ 65536) ∧
    (let k := (withArgs [(0, 65536)] []).snap; 0 ≤ param k 0 ∧ param k 0 ≤ 65536) := by decide +kernel

/-- A gradient coordinate at each end, and inside under each value of GRAD_INSET. -/
theorem witness_GradientReadsTheRamp :
    param (withArgs [(0, 0)] []).snap 0 ≤ 0 ∧ 2 ^ 24 ≤ param (withArgs [(0, 16777216)] []).snap 0 ∧
    (let s := withArgs [(0, 16777215)] []; 0 ≤ param s.snap 0 ∧ param s.snap 0 < 2 ^ 24 ∧ s.cfg.gradInset = .ulp) ∧
    (let s := { withArgs [(0, 1)] [] with cfg := { Config.standard with gradInset := .scale } };
      0 ≤ param s.snap 0 ∧ param s.snap 0 < 2 ^ 24 ∧ s.cfg.gradInset = .scale) := by decide +kernel

theorem witness_SamplerProperties :
    (⟨0x1000, 12, 12⟩ : Tex).sizeOk = true ∧ InTex ⟨0x1000, 12, 12⟩ 4095 4095 ∧
    (⟨false, false⟩ : Wrap).clampU = false ∧ (⟨false, false⟩ : Wrap).clampV = false := by
  refine ⟨by decide, ⟨?_, ?_⟩, rfl, rfl⟩ <;> decide +kernel

/-- A destination one texel past its source, and one that is its source. -/
theorem witness_TexCopyCopiesInOrder :
    let s := accept { idle 1 1 [] [] with td := (slots 1 1).set 0 ⟨0x401, 1, 1⟩ } 0x810
    readyB (.texCopy 0 1) s = true ∧ (slotTex s.snap 0).base = (slotTex s.snap 1).base + 8 ∧
    readyB (.texCopy 1 1) s = true := by decide +kernel

theorem witness_NoiseLatticeFadesAndTiles : (0 : Int) ≤ 0 ∧ (0 : Int) ≤ 65535 ∧ (65535 : Int) ≤ 65535 := by decide

theorem witness_NoisePaintsItsGradient :
    let s := busy (.noise 0 1 true true true) 1 1 [(0, 12), (1, 0), (2, 16), (3, 1)] []
    readyB (.noise 0 1 true true true) s = true ∧ param s.snap 0 ≤ 12 ∧ 0 ≤ param s.snap 1 ∧ param s.snap 2 ≤ 16 ∧
    0 < param s.snap 3 := by decide +kernel

/-- Two centres on one point: the first wins, and the second is the nearest of the others. -/
theorem witness_CellsUsesTheNearestCentres :
    let s := busy (.cells 0 1 true) 0 0 [(0, 0x3000), (1, 2)] oneCell
    readyB (.cells 0 1 true) s = true ∧ readyB (.cells 0 1 false) s = true ∧ 2 ≤ param s.snap 1 ∧ param s.snap 1 ≤ 256 ∧
    paramU s.snap 0 % 8 = 0 ∧ paramU s.snap 0 + 16 * param s.snap 1 ≤ 2 ^ 32 ∧
    dist2 (cellCoord 0 0) (cellCoord 0 0) (cellRecord s.mem (paramU s.snap 0) 0) <
      dist2 (cellCoord 0 0) (cellCoord 0 0) (cellRecord s.mem (paramU s.snap 0) 1) := by decide +kernel

/-- A pixel that GLOWRECT and PASTE draw, and a transform both skip. -/
theorem witness_parallelogram :
    let k := (withArgs [(2, 65536), (5, 65536)] []).snap
    let D := slotTex k 0
    let g := glowLow (param k 0) (param k 2) (param k 4)
    let p := pasteLow (param k 0) (param k 2) (param k 4)
    (1 * 2 ^ 1 : Int) * 65536 / 2 ^ 16 = 2 ∧ 2 ^ 30 ≤ magnitude (determinant k) * 2 ^ (D.sx + D.sy) ∧
    0 ≤ walkU k D p p 1 1 ∧ walkU k D p p 1 1 < 65536 ∧ 0 ≤ walkV k D p p 1 1 ∧ walkV k D p p 1 1 < 65536 ∧
    glowDistance k (walkU k D g g 0 0) (walkV k D g g 0 0) < 65536 ∧
    ¬ 2 ^ 30 ≤ magnitude (determinant (withArgs [] []).snap) * 2 ^ (D.sx + D.sy) := by decide +kernel

theorem witness_matrices :
    let s := busy .nop 1 1 [(16, 8323072), (31, -8323072)] []
    readyB (.colorMatrix 0 1 true) s = true ∧ readyB (.colorMatrix 0 0 false) s = true ∧
    readyB (.coordMatrix 0 1 ⟨⟨true, false⟩, true⟩) s = true ∧
    ((List.range 16).all fun j => coefOk (param s.snap (16 + j))) = true := by decide +kernel

theorem witness_BlurWindowIsTheWeightedSum : 0 < 1 ∧ 32 < 33 ∧ 0 < 1 := by decide

/-- A blur of both axes, and one whose order makes it a copy. -/
theorem witness_BlurIsSeparableInPlaceOrApart :
    let s := busy (.blur 0 1 ⟨true, false⟩) 1 1 [(0, 65536), (1, 65536), (2, 255)] []
    readyB (.blur 0 1 ⟨true, false⟩) s = true ∧ readyB (.blur 0 0 ⟨true, false⟩) s = true ∧ param s.snap 2 ≤ 255 ∧
    param (withArgs [] []).snap 2 ≤ 0 := by decide +kernel

theorem witness_FullPasteCoversTheTexture :
    let k := (withArgs [(2, 65536), (5, 65536)] []).snap
    (⟨0, 12, 0⟩ : Tex).sizeOk = true ∧ param k 0 = 0 ∧ param k 1 = 0 ∧ param k 2 = 65536 ∧ param k 3 = 0 ∧
    param k 4 = 0 ∧ param k 5 = 65536 := by decide +kernel

theorem witness_NormalisedVectorIsBounded : (⟨3, 4, 0⟩ : Vec3) ≠ ⟨0, 0, 0⟩ := by decide

/-- A list of two records apart from the destination, and no list. -/
theorem witness_LinearCombineSumsItsInputs :
    let s := busy (.linearCombine 0) 2 0 [(0, 0x3000), (1, 2), (2, 65536)] twoInputs
    readyB (.linearCombine 0) s = true ∧ param s.snap 1 ≤ 255 ∧ param s.snap 2 ≤ 127 * 65536 ∧
    paramU s.snap 0 % 4 = 0 ∧ paramU s.snap 0 + 24 * param s.snap 1 ≤ 2 ^ 32 ∧
    ((List.range 2).all fun j => firstError (recordChecks j (inputRecord s.mem (paramU s.snap 0) j)) == none) = true ∧
    ((inputRecords s.mem (paramU s.snap 0) 0 2).all fun r => !(slotTex s.snap 0).extent.meets (recordTex r).extent) = true ∧
    readyB (.linearCombine 0) (busy (.linearCombine 0) 2 0 [(2, 65536)] []) = true := by decide +kernel

end Sys2Proof.Tests
end

/-! The frame of `exec`: what no command sees, and what a command leaves as it was (10_state.md R48, R56,
R60, R65; 20_memory.md R91). -/

namespace Sys2Proof.Machine

/-! ## Changes of the state that commands do not see -/

/-- A change `f` of the state that leaves what commands read as it is, and that the operations commands are
made of carry along. -/
structure Unseen (f : State → State) : Prop where
  cfg (s : State) : (f s).cfg = s.cfg
  snap (s : State) : (f s).snap = s.snap
  mem (s : State) : (f s).mem = s.mem
  port (s : State) : (f s).port = s.port
  finish (s : State) : finish (f s) = f (finish s)
  setRes (s : State) (p : Pixel) : setRes (f s) p = f (setRes s p)
  raiseError (s : State) (e : CmdError) : raiseError (f s) e = f (raiseError s e)
  spoil (s : State) (d : Tex) : spoil (f s) d = f (spoil s d)
  setMem (s : State) (m : Memory) : { f s with mem := m } = f { s with mem := m }
  releaseScratch (s : State) : releaseScratch (f s) = f (releaseScratch s)
  loadCells (s : State) : loadCells (f s) = f (loadCells s)
  loadInputs (s : State) : loadInputs (f s) = f (loadInputs s)

namespace Unseen

variable {f : State → State} (hf : Unseen f) (s : State)
include hf

theorem afterChecks_map (cs : List Check) (go : Result) :
    afterChecks (f s) cs (mapNext f go) = mapNext f (afterChecks s cs go) := by
  rcases afterChecks_cases s cs go with ⟨e, he, h⟩ | ⟨hn, h⟩
  · rw [h, afterChecks_fail he, hf.raiseError]; rfl
  · rw [h, afterChecks_pass hn]

theorem unlessSideEffects_map (es : List Extent) (go : Result) :
    unlessSideEffects (f s) es (mapNext f go) = mapNext f (unlessSideEffects s es go) := by
  unfold unlessSideEffects
  rw [hf.cfg]
  split <;> rfl

theorem runPixel_map (p : Pixel) : runPixel (f s) p = mapNext f (runPixel s p) := by
  simp only [runPixel, mapNext, hf.setRes, hf.finish]

theorem runSample_map (es : List Extent) (p : Memory → Pixel) :
    runSample (f s) es p = mapNext f (runSample s es p) := by
  unfold runSample
  rw [← hf.unlessSideEffects_map, hf.port, hf.mem, hf.raiseError, hf.setRes, hf.finish]
  split <;> rfl

theorem runTexture_map (d : Tex) (es : List Extent) (body : Memory → Memory) :
    runTexture (f s) d es body = mapNext f (runTexture s d es body) := by
  unfold runTexture
  rw [← hf.unlessSideEffects_map, hf.setMem, hf.finish, hf.spoil, hf.raiseError, hf.mem, hf.port]
  split <;> rfl

theorem releasing_map (r : Result) : releasing (mapNext f r) = mapNext f (releasing r) := by
  cases r with
  | next s => simp only [releasing, mapNext, hf.releaseScratch]
  | fault x => rfl
  | refused x => rfl

theorem loadCells_cells : (f (Machine.loadCells s)).scratch.cells = (Machine.loadCells s).scratch.cells := by
  rw [← hf.loadCells, loadCells_scratch, loadCells_scratch, hf.mem, hf.snap]

theorem loadInputs_records :
    (f (Machine.loadInputs s)).scratch.inputs = (Machine.loadInputs s).scratch.inputs := by
  rw [← hf.loadInputs, loadInputs_scratch, loadInputs_scratch, hf.mem, hf.snap]

end Unseen

/-- A command carries an unseen change along; NOISE does if building the table does, and the table is
unchanged. -/
theorem exec_map {f : State → State} (hf : Unseen f) (i : Instr) (s : State)
    (hn : ∀ d a x y z, i = .noise d a x y z → buildPerm (f s) = f (buildPerm s) ∧ ∀ u, (f u).perm = u.perm) :
    exec i (f s) = mapNext f (exec i s) := by
  cases i with
  | nop => simp only [exec, execNop, mapNext, hf.finish]
  | pixInit8 | pixInit32 | pixLerp | pixAdd | pixMulc | pixOver | pixScreen =>
    simp only [exec, execPixInit8, execPixInit32, execPixLerp, execPixAdd, execPixMulc, execPixOver, execPixScreen,
      hf.snap, hf.runPixel_map, hf.afterChecks_map]
  | smpNearest | smpBilinear | smpFiltered | smpGradient =>
    simp only [exec, execSmpNearest, execSmpBilinear, execSmpFiltered, execSmpGradient, hf.snap, hf.cfg,
      hf.runSample_map, hf.afterChecks_map]
  | texCopy | glowrect | colorMatrix | coordMatrix | colorRemap | coordRemap | derive | ternary | paste | bump =>
    simp only [exec, execTexCopy, execGlowrect, execColorMatrix, execCoordMatrix, execColorRemap, execCoordRemap,
      execDerive, execTernary, execPaste, execBump, hf.snap, hf.cfg, hf.runTexture_map, hf.afterChecks_map]
  | blur => simp only [exec, execBlur, hf.snap, hf.runTexture_map, hf.releasing_map, hf.afterChecks_map]
  | noise d a x y z =>
    obtain ⟨hb, hp⟩ := hn d a x y z rfl
    simp only [exec, execNoise, hf.snap, hf.cfg, hb, hp, hf.runTexture_map, hf.afterChecks_map]
  | cells =>
    simp only [exec, execCells, hf.snap, hf.cfg, hf.mem, hf.port, hf.loadCells, hf.loadCells_cells,
      hf.runTexture_map, hf.releasing_map, hf.afterChecks_map, hf.unlessSideEffects_map]
  | linearCombine =>
    simp only [exec, execLinearCombine, hf.snap, hf.mem, hf.port, hf.loadInputs, hf.loadInputs_records,
      hf.runTexture_map, hf.releasing_map, hf.afterChecks_map, hf.unlessSideEffects_map]

/-- The state with other contents of the registers that a command takes into the snapshot, of CTRL, and
of CMD. -/
def setHostRegs (td : Vector Desc 8) (param : Vector Word 64) (ctrl : Ctrl) (cmd : Word) (s : State) : State :=
  { s with td := td, param := param, ctrl := ctrl, cmd := cmd }

theorem setHostRegs_unseen (td : Vector Desc 8) (param : Vector Word 64) (ctrl : Ctrl) (cmd : Word) :
    Unseen (setHostRegs td param ctrl cmd) := by
  constructor <;> intros <;> rfl

theorem buildPerm_setHostRegs (td : Vector Desc 8) (param : Vector Word 64) (ctrl : Ctrl) (cmd : Word) (s : State) :
    buildPerm (setHostRegs td param ctrl cmd s) = setHostRegs td param ctrl cmd (buildPerm s) := by
  unfold buildPerm
  rw [show (setHostRegs td param ctrl cmd s).status = s.status from rfl]
  split <;> rfl

/-- Settles O17: a command carries other contents of the host's registers along, and so does building the
table. -/
theorem commandsReadOnlyTheSnapshot : Obligations.CommandsReadOnlyTheSnapshot := fun i s td param ctrl cmd =>
  exec_map (setHostRegs_unseen td param ctrl cmd) i s fun _ _ _ _ _ _ => ⟨buildPerm_setHostRegs .., fun _ => rfl⟩

/-! ## What a command leaves unchanged -/

/-- The state with another permutation table and another PERM_READY. -/
def setTable (pt : Array (BitVec 12)) (ready : Bool) (s : State) : State :=
  { s with perm := pt, status := { s.status with permReady := ready } }

theorem setTable_unseen (pt : Array (BitVec 12)) (ready : Bool) : Unseen (setTable pt ready) := by
  constructor <;> intros <;> rfl

/-- No command but NOISE changes the table or PERM_READY: whatever they hold is carried along
(10_state.md R60). -/
theorem exec_keeps_table {i : Instr} {s t : State} (hi : ∀ d a x y z, i ≠ .noise d a x y z) (h : exec i s = .next t) :
    t.perm = s.perm ∧ t.status.permReady = s.status.permReady := by
  have hmap := exec_map (setTable_unseen s.perm s.status.permReady) i s fun d a x y z e => absurd e (hi d a x y z)
  rw [show setTable s.perm s.status.permReady s = s from rfl, h] at hmap
  have ht : t = setTable s.perm s.status.permReady t := Host.Outcome.next.inj hmap
  rw [ht]
  exact ⟨rfl, rfl⟩

/-- Building the table changes PT and PERM_READY only (10_state.md R60). -/
theorem buildPerm_eq (s : State) :
    buildPerm s = { s with perm := (buildPerm s).perm, status := statusPermBuilt s.status } := by
  unfold buildPerm
  split
  · rename_i h
    rw [statusPermBuilt, ← h]
  · rfl

/-- `t` is `s` but for what the end of a command can change. -/
def OnlyCommandEnd (s t : State) : Prop :=
  t = { s with
    status := t.status
    errinfo := t.errinfo
    resRg := t.resRg
    resBa := t.resBa
    perm := t.perm
    scratch := t.scratch
    mem := t.mem
    freeIx := t.freeIx }

/-- What a body that writes a texture leaves unchanged (20_memory.md R91, 10_state.md R65). -/
theorem EndsWriting.frame {u t : State} {d : Tex} (h : EndsWriting u d t) :
    OnlyCommandEnd u t ∧ t.status.ovr = u.status.ovr ∧ t.resRg = u.resRg ∧ t.resBa = u.resBa ∧ t.perm = u.perm ∧
      t.status.permReady = u.status.permReady ∧ SameOutside d.extent u.mem t.mem := by
  obtain ⟨m', sc, fx, hw, rfl | ⟨-, rfl⟩⟩ := h <;>
    exact ⟨rfl, rfl, rfl, rfl, rfl, rfl, hw.sameOutside⟩

/-- What any command leaves unchanged, but for the table. -/
theorem EndsAs.frame {i : Instr} {s t : State} (h : EndsAs i s t) :
    OnlyCommandEnd s t ∧ t.status.ovr = s.status.ovr ∧
    (writesResult i = false → t.resRg = s.resRg ∧ t.resBa = s.resBa) ∧
    (destSlot i = none → t.mem = s.mem) ∧
    (∀ d, destSlot i = some d → SameOutside (slotTex s.snap d).extent s.mem t.mem) := by
  rcases h with ⟨e, rfl⟩ | ⟨hi, p, rfl⟩ | ⟨rfl, rfl⟩ | ⟨n, u, hn, -, hu, hw⟩
  · exact ⟨rfl, rfl, fun _ => ⟨rfl, rfl⟩, fun _ => rfl, fun d _ => .refl _ _⟩
  · exact ⟨rfl, rfl, fun h => absurd (h.symm.trans hi) Bool.false_ne_true, fun _ => rfl, fun d _ => .refl _ _⟩
  · exact ⟨rfl, rfl, fun _ => ⟨rfl, rfl⟩, fun _ => rfl, fun d _ => .refl _ _⟩
  · have hsu : u = { s with perm := u.perm, status := u.status } ∧ u.status.ovr = s.status.ovr := by
      rcases hu with rfl | rfl
      · exact ⟨rfl, rfl⟩
      · rw [buildPerm_eq s]; exact ⟨rfl, rfl⟩
    obtain ⟨hsu, hovr⟩ := hsu
    obtain ⟨ht, hovr', hrg, hba, -, -, hm⟩ := hw.frame
    rw [hsu] at ht hrg hba hm
    refine ⟨ht, hovr'.trans hovr, fun _ => ⟨hrg, hba⟩,
      fun h => absurd (hn.symm.trans h) (Option.some_ne_none n), fun d hd => ?_⟩
    rw [hn] at hd
    cases hd
    exact hm

/-- Settles O16: the frame of each way a command can end, and for the table that every command but NOISE
carries it along. -/
theorem commandsChangeOnlyTheirOwn : Obligations.CommandsChangeOnlyTheirOwn := by
  intro i s t h
  obtain ⟨ht, hovr, hres, hmem, hdest⟩ := (exec_next h).frame
  refine ⟨?_, ?_, ?_, ?_, ?_, ?_, ?_, ?_, ?_, ?_, ?_, hovr, hres, fun hi => exec_keeps_table hi h, hmem, hdest⟩ <;>
    rw [ht]

end Sys2Proof.Machine

/-! One step of the machine: which agent moves, and what its move can leave (10_state.md R40, R41, R49, R60;
log 6). -/

namespace Sys2Proof.Machine

/-! ## Whose move it is -/

/-- With no input left, or its turn first, the engine moves (log 6). -/
theorem step_engine {s : State} {rest : List Input} (h : s.inputs = [] ∨ s.inputs = .engine :: rest) :
    step s = engineTurn { s with inputs := s.inputs.tail } := by
  rcases h with h | h
  · simp only [step, nextMove, h, List.tail_nil]
    rw [← h]
  · simp only [step, nextMove, h, List.tail_cons]

/-- Any other input that stands first moves (log 6). -/
theorem step_host {s : State} {i : Input} {rest : List Input} (h : s.inputs = i :: rest) (hi : i ≠ .engine) :
    step s = hostMove { s with inputs := rest } i := by
  cases i <;> simp_all [step, nextMove]

/-- Every step is the engine's move or the host's, past the inputs' first. -/
theorem step_cases (s : State) :
    step s = engineTurn { s with inputs := s.inputs.tail } ∨ ∃ i, step s = hostMove { s with inputs := s.inputs.tail } i := by
  rcases h : s.inputs with _ | ⟨i, rest⟩
  · exact .inl (h ▸ step_engine (rest := []) (.inl h))
  · by_cases hi : i = .engine
    · subst hi; exact .inl (h ▸ step_engine (.inr h))
    · exact .inr ⟨i, step_host h hi⟩

/-! ## The engine's turn -/

/-- A released engine with a command runs it. -/
theorem engineTurn_running {s : State} (hr : s.rst = false) (hb : s.status.busy = true) :
    engineTurn s = runCommand s := by simp [engineTurn, hr, hb]

theorem runCommand_command {s : State} {i : Instr} (h : decode s.snap.cmd = .command i) :
    runCommand s = settling i s (exec i s) := by simp [runCommand, fetchWord, h]

theorem runCommand_error {s : State} {e : CmdError} (h : decode s.snap.cmd = .error e) :
    runCommand s = .next (closeRace (raiseError s e)) := by simp [runCommand, fetchWord, h]

theorem raiseError_endedWithError (s : State) (e : CmdError) : EndedWithError s (raiseError s e) e := ⟨rfl, rfl⟩

theorem raiseError_onlyError (s : State) (e : CmdError) : OnlyError s (raiseError s e) := rfl

/-- What the engine's turn can leave: the state as it is, the end of a command or of a word that does not
decode, its race closed, and before that its results opened (log 12). -/
inductive EngineMoved (s : State) : State → Prop
  | nothing : EngineMoved s s
  | undecoded (e : CmdError) : EngineMoved s (closeRace (raiseError s e))
  | ended {i : Instr} {u : State} : exec i s = .next u → s.raced = [] → EngineMoved s u
  | raced {i : Instr} {u : State} : exec i s = .next u → EngineMoved s (closeRace u)
  | opened {i : Instr} {u : State} : exec i s = .next u → firstError (registerChecks i s.snap) = none →
      EngineMoved s (closeRace (openResult i u))

theorem engineTurn_next {s t : State} (h : engineTurn s = .next t) : EngineMoved s t := by
  unfold engineTurn at h
  split at h
  · cases h; exact .nothing
  split at h
  · cases hd : decode s.snap.cmd with
    | error e =>
      rw [runCommand_error hd] at h
      cases h
      exact .undecoded e
    | command i =>
      rw [runCommand_command hd] at h
      obtain ⟨u, hu, ⟨hn, rfl⟩ | ⟨-, hc, rfl⟩ | ⟨-, -, rfl⟩⟩ := settling_next h
      · exact .ended hu hn
      · exact .opened hu hc
      · exact .raced hu
  · cases h; exact .nothing

/-- Settles O6: the engine's turn runs the word of the snapshot, and what decoding refuses takes its
error. -/
theorem stepRunsDecodedCommand : Obligations.StepRunsDecodedCommand := by
  intro s rest hr hb hin u
  have hstep : step s = runCommand u := (step_engine hin).trans (engineTurn_running hr hb)
  constructor
  · intro i hi
    have hrun : step s = settling i u (exec i u) := hstep.trans (runCommand_command hi)
    exact ⟨hrun, fun h => hrun.trans (settling_none h _)⟩
  · intro e he
    have hrun : step s = .next (closeRace (raiseError u e)) := hstep.trans (runCommand_error he)
    exact ⟨raiseError u e, hrun, raiseError_endedWithError u e, raiseError_onlyError u e,
      fun h => hrun.trans (congrArg _ (closeRace_none (s := raiseError u e) h))⟩

/-! ## The host's move -/

/-- The inputs are no register. -/
theorem readReg_setInputs (s : State) (l : List Input) (r : Reg) : readReg { s with inputs := l } r = readReg s r := by
  cases r <;> rfl

/-- An aligned 32-bit write at an offset of the block, the reset input released, writes the register there
(10_state.md R41). -/
theorem step_writeRegister {s : State} {off : Nat} {v : BitVec 64} {rest : List Input} (hoff : off < 4096)
    (hr : s.rst = false) (ha : off % 4 = 0) (hin : s.inputs = .busWrite (regBase s.cfg + off) .w32 v :: rest) :
    step s = .next (writeReg { s with inputs := rest } (regAt off) (v.setWidth 32)) := by
  rw [step_host hin (by simp)]
  simp [hostMove, busWrite, inRegBlock, busWriteReg, regAccessOk, hoff, hr, ha]

/-- An aligned 32-bit read at an offset of the block, the reset input released, returns the register there
and changes nothing else (10_state.md R41). -/
theorem step_readRegister {s : State} {off : Nat} {rest : List Input} (hoff : off < 4096)
    (hr : s.rst = false) (ha : off % 4 = 0) (hin : s.inputs = .busRead (regBase s.cfg + off) .w32 :: rest) :
    step s = .next { s with inputs := rest, hostData := (readReg s (regAt off)).setWidth 64 } := by
  rw [step_host hin (by simp), ← readReg_setInputs s rest (regAt off)]
  simp [hostMove, busRead, inRegBlock, busReadReg, regAccessOk, hoff, hr, ha]

theorem regAccessOk_false {off : Nat} {w : Width} (h : w ≠ .w32 ∨ off % 4 ≠ 0) : regAccessOk off w = false := by
  rcases h with h | h <;> simp [regAccessOk, h]

/-- A write of another width or alignment is refused (10_state.md R49). -/
theorem step_write_refused {s : State} {off : Nat} {w : Width} {v : BitVec 64} {rest : List Input} (hoff : off < 4096)
    (h : w ≠ .w32 ∨ off % 4 ≠ 0) (hin : s.inputs = .busWrite (regBase s.cfg + off) w v :: rest) :
    step s = .refused .registerAccess := by
  rw [step_host hin (by simp)]
  simp [hostMove, busWrite, inRegBlock, busWriteReg, regAccessOk_false h, hoff]

/-- A read of another width or alignment is refused (10_state.md R49). -/
theorem step_read_refused {s : State} {off : Nat} {w : Width} {rest : List Input} (hoff : off < 4096)
    (h : w ≠ .w32 ∨ off % 4 ≠ 0) (hin : s.inputs = .busRead (regBase s.cfg + off) w :: rest) :
    step s = .refused .registerAccess := by
  rw [step_host hin (by simp)]
  simp [hostMove, busRead, inRegBlock, busReadReg, regAccessOk_false h, hoff]

/-- What a host access to memory can answer, when it answers a next state. -/
theorem onMemory_next {s race go t : State} {e : Extent} (h : onMemory s e race go = .next t) :
    e.base + e.len ≤ 2 ^ 32 ∧ ((races s e = true ∧ t = race) ∨ (races s e = false ∧ t = go)) := by
  unfold onMemory at h
  split at h
  · cases h
  rename_i he
  split at h
  · cases h
  split at h <;> cases h <;> simp_all

/-- What a move of the host, the port or the reset input can leave. -/
inductive HostMoved (s : State) : State → Prop
  | nothing : HostMoved s s
  | register (r : Reg) (v : Word) : s.rst = false → HostMoved s (writeReg s r v)
  | readData (d : BitVec 64) (fx : Nat) : HostMoved s { s with hostData := d, freeIx := fx }
  | memory (addr v : Nat) (w : Width) : addr + widthBytes w ≤ 2 ^ 32 →
      HostMoved s { s with mem := memWrite s.mem addr v (widthBytes w) }
  | race (e : Extent) : e.base + e.len ≤ 2 ^ 32 → races s e = true → HostMoved s (raceWrite s e)
  | port (p : PortAnswer) : HostMoved s { s with port := p }
  | resetPin (level : Bool) : HostMoved s (setResetPin s level)

theorem busWrite_next {s t : State} {addr : Nat} {w : Width} {v : BitVec 64} (h : busWrite s addr w v = .next t) :
    HostMoved s t := by
  unfold busWrite at h
  split at h
  · unfold busWriteReg at h
    split at h
    · cases h
    split at h <;> cases h
    · exact .nothing
    · exact .register _ _ (by simp_all)
  · obtain ⟨he, ⟨hr, rfl⟩ | ⟨-, rfl⟩⟩ := onMemory_next h
    · exact .race _ he hr
    · exact .memory _ _ _ he

theorem busRead_next {s t : State} {addr : Nat} {w : Width} (h : busRead s addr w = .next t) : HostMoved s t := by
  unfold busRead at h
  split at h
  · unfold busReadReg at h
    split at h
    · cases h
    split at h <;> cases h
    · exact .readData _ _
    · exact .readData _ s.freeIx
  · obtain ⟨-, ⟨-, rfl⟩ | ⟨-, rfl⟩⟩ := onMemory_next h
    · exact .readData _ _
    · exact .readData _ s.freeIx

theorem hostMove_next {s t : State} {i : Input} (h : hostMove s i = .next t) : HostMoved s t := by
  cases i with
  | busWrite addr w v => exact busWrite_next h
  | busRead addr w => exact busRead_next h
  | port p => cases h; exact .port p
  | resetPin level => cases h; exact .resetPin level
  | engine => cases h; exact .nothing

/-- A CMD write to an idle engine is its acceptance (10_state.md R46). -/
theorem writeCmd_idle {s : State} (h : s.status.busy = false) (v : Word) : writeCmd s v = accept s v := by
  simp [writeCmd, h]

/-- A CMD write to a busy engine sets OVR alone (60_exceptions.md R407). -/
theorem writeCmd_busy {s : State} (h : s.status.busy = true) (v : Word) :
    writeCmd s v = { s with status := statusOverrun s.status } := by simp [writeCmd, h]

/-- Settles O7: the write at CMD's offset is accepted or overruns, and the engine's turn that follows runs
the accepted word by O6. -/
theorem cmdWriteRunsTheCommandOrOverruns : Obligations.CmdWriteRunsTheCommandOrOverruns := by
  intro s v rest hr hin
  have hstep : step s = .next (writeCmd { s with inputs := .engine :: rest } (v.setWidth 32)) :=
    step_writeRegister (off := 0x010) (by decide) hr rfl hin
  constructor
  · intro hb
    rw [writeCmd_idle (s := { s with inputs := .engine :: rest }) hb] at hstep
    refine ⟨_, hstep, rfl, fun i hi => ?_⟩
    have hrun := stepRunsDecodedCommand (accept { s with inputs := .engine :: rest } (v.setWidth 32)) rest hr rfl
      (.inr rfl)
    exact (hrun.1 i hi).2 rfl
  · intro hb
    rwa [writeCmd_busy (s := { s with inputs := .engine :: rest }) hb] at hstep

/-! ## The register map -/

theorem regAt_tdBase (n : Slot) : regAt (0x040 + 8 * n.toNat) = .tdBase n := by revert n; decide

theorem regAt_tdSize (n : Slot) : regAt (0x044 + 8 * n.toNat) = .tdSize n := by revert n; decide

theorem regAt_param (k : BitVec 6) : regAt (0x100 + 4 * k.toNat) = .param k := by revert k; decide

/-- The gaps of the map are reserved (10_state.md R41). -/
theorem regAt_reserved {off : Nat} (h : 0x020 ≤ off ∧ off < 0x040 ∨ 0x080 ≤ off ∧ off < 0x100 ∨ 0x200 ≤ off) :
    regAt off = .reserved := by
  unfold regAt
  repeat rw [if_neg (by omega)]

/-- Settles O24: the block's accesses, and the map offset by offset. -/
theorem busAccessesTheRegisterMap : Obligations.BusAccessesTheRegisterMap := by
  intro s rest off hoff
  refine ⟨?read, ?write, ?refused, by decide, fun n => ⟨regAt_tdBase n, regAt_tdSize n⟩, regAt_param,
    fun _ => regAt_reserved⟩
  case read => exact fun hr ha hin => step_readRegister hoff hr ha hin
  case write => exact fun v hr ha hin => step_writeRegister hoff hr ha hin
  case refused => exact fun w hw => ⟨step_read_refused hoff hw, fun v => step_write_refused hoff hw⟩

/-! ## The permutation table -/

/-- `t` has the parameters, the table and PERM_READY of `s`. -/
def SameTable (s t : State) : Prop := t.cfg = s.cfg ∧ t.perm = s.perm ∧ t.status.permReady = s.status.permReady

theorem SameTable.tableRight {s t : State} (h : SameTable s t) (hs : TableRight s) : TableRight t := by
  obtain ⟨hc, hp, hr⟩ := h
  simpa only [TableRight, hc, hp, hr] using hs

theorem tableRight_of_not_ready {s : State} (h : s.status.permReady = false) : TableRight s :=
  fun h' => absurd (h.symm.trans h') Bool.false_ne_true

/-- The table a NOISE builds is the one R230 gives. -/
theorem buildPerm_tableRight {s : State} (h : TableRight s) : TableRight (buildPerm s) := by
  unfold buildPerm
  split
  · exact h
  · exact fun _ => rfl

theorem closeRace_tableRight {s : State} (h : TableRight s) : TableRight (closeRace s) := by
  rw [closeRace_eq]; exact h

theorem openResult_tableRight (i : Instr) {s : State} (h : TableRight s) : TableRight (openResult i s) := by
  unfold openResult
  split
  · exact h
  · split <;> exact h

/-- A command that answers a next state keeps the table right, NOISE by building it. -/
theorem exec_tableRight {i : Instr} {s t : State} (hs : TableRight s) (h : exec i s = .next t) : TableRight t := by
  rcases exec_next h with ⟨e, rfl⟩ | ⟨-, p, rfl⟩ | ⟨-, rfl⟩ | ⟨n, u, -, -, hu, hw⟩
  · exact hs
  · exact hs
  · exact hs
  · have hut : TableRight u := by
      rcases hu with rfl | rfl
      · exact hs
      · exact buildPerm_tableRight hs
    obtain ⟨ht, -, -, -, hp, hr, -⟩ := hw.frame
    exact SameTable.tableRight ⟨by rw [ht], hp, hr⟩ hut

theorem engineMoved_tableRight {s t : State} (hs : TableRight s) (h : EngineMoved s t) : TableRight t := by
  cases h with
  | nothing => exact hs
  | undecoded e => exact closeRace_tableRight hs
  | ended hu => exact exec_tableRight hs hu
  | raced hu => exact closeRace_tableRight (exec_tableRight hs hu)
  | opened hu => exact closeRace_tableRight (openResult_tableRight _ (exec_tableRight hs hu))

theorem abandon_tableRight {s : State} (h : TableRight s) : TableRight (abandon s) := by
  rcases abandon_cases s with ⟨-, e⟩ | ⟨-, ⟨-, e⟩ | ⟨d, -, e⟩⟩ <;> rw [e]
  · exact h
  · exact closeRace_tableRight h
  · exact closeRace_tableRight h

/-- A register write keeps the table, or is the soft reset, which puts it out of use (70_reset_and_hazards.md
R451, R452). -/
theorem writeReg_tableRight {s : State} (h : TableRight s) (r : Reg) (v : Word) : TableRight (writeReg s r v) := by
  cases r with
  | ctrl =>
    simp only [writeReg, writeCtrl]
    split
    · exact tableRight_of_not_ready rfl
    · exact h
  | cmd =>
    simp only [writeReg, writeCmd]
    split <;> exact h
  | status | tdBase | tdSize | param | id | version | errinfo | resRg | resBa | reserved => exact h

theorem setResetPin_tableRight {s : State} (h : TableRight s) (level : Bool) : TableRight (setResetPin s level) := by
  unfold setResetPin
  split
  · exact abandon_tableRight h
  · split
    · exact tableRight_of_not_ready rfl
    · exact h

theorem hostMoved_tableRight {s t : State} (hs : TableRight s) (h : HostMoved s t) : TableRight t := by
  cases h with
  | register r v => exact writeReg_tableRight hs r v
  | resetPin level => exact setResetPin_tableRight hs level
  | nothing | readData | memory | race | port => exact hs

/-- Settles O9: each agent's move keeps the table, builds it right, or puts it out of use. -/
theorem stepKeepsNoiseTable : Obligations.StepKeepsNoiseTable := by
  intro s t hs h
  have hs' : TableRight { s with inputs := s.inputs.tail } := hs
  rcases step_cases s with e | ⟨i, e⟩ <;> rw [e] at h
  · exact engineMoved_tableRight hs' (engineTurn_next h)
  · exact hostMoved_tableRight hs' (hostMove_next h)

end Sys2Proof.Machine

/-! What a host write to each register leaves readable (10_state.md R41 to R57). -/

namespace Sys2Proof.Machine

/-! ## The words of the written fields -/

/-- A field placed in a word, of which a mask keeps what it keeps of the field. -/
theorem place_and {n : Nat} (x : BitVec n) (k : Nat) (m : Word) :
    place x k &&& m = place (x &&& m.extractLsb' k n) k := by
  ext i hi
  simp only [place, BitVec.getElem_and, BitVec.getElem_shiftLeft, BitVec.getElem_setWidth, BitVec.getLsbD_and,
    BitVec.getLsbD_extractLsb']
  by_cases hk : i < k
  · simp [hk]
  · by_cases hn : i - k < n
    · simp [hk, hn, Nat.add_sub_cancel' (Nat.le_of_not_lt hk), ← BitVec.getLsbD_eq_getElem hi]
    · simp [hn, BitVec.getLsbD_of_ge x (i - k) (Nat.le_of_not_lt hn)]

/-- A field of a word, put back in its place. -/
theorem place_extractLsb' (v : Word) (n k : Nat) : place (v.extractLsb' k n) k = v &&& place (BitVec.allOnes n) k := by
  rw [BitVec.and_comm, place_and, BitVec.allOnes_and]

theorem extractLsb'_one (m : Word) (k : Nat) : m.extractLsb' k 1 = BitVec.ofBool (m.getLsbD k) := by
  ext i hi
  obtain rfl : i = 0 := by omega
  simp

theorem place_getLsbD (v : Word) (k : Nat) :
    place (BitVec.ofBool (v.getLsbD k)) k = v &&& place (BitVec.allOnes 1) k := by
  rw [← extractLsb'_one, place_extractLsb']

theorem tdBaseWord_descBaseWritten (d : Desc) (v : Word) : tdBaseWord (descBaseWritten d v) = v &&& 0xFFFFFFF8 :=
  place_extractLsb' v 29 3

theorem tdSizeWord_descSizeWritten (d : Desc) (v : Word) : tdSizeWord (descSizeWritten d v) = v &&& 0x00000F0F := by
  simp only [tdSizeWord, descSizeWritten, place_extractLsb', ← BitVec.and_or_distrib_left]
  rfl

theorem ctrlWord_ctrlOfWord (v : Word) : ctrlWord (ctrlOfWord v) = v &&& 0x00000003 := by
  simp only [ctrlWord, ctrlOfWord, place_getLsbD, ← BitVec.and_or_distrib_left]
  rfl

/-- A mask over STATUS, field by field. -/
theorem statusWord_and (f : Status) (m : Word) :
    statusWord f &&& m = statusWord
      { busy := f.busy && m.getLsbD 0
        done := f.done && m.getLsbD 1
        err := f.err && m.getLsbD 2
        ovr := f.ovr && m.getLsbD 3
        permReady := f.permReady && m.getLsbD 4
        errcode := f.errcode &&& m.extractLsb' 8 8 } := by
  simp only [statusWord, BitVec.and_or_distrib_right, place_and, extractLsb'_one, BitVec.ofBool_and_ofBool]

/-- STATUS after a write: the three flags cleared by a 1, and ERRCODE with ERR (10_state.md R44). -/
theorem statusWord_statusWritten (f : Status) (v : Word) :
    statusWord (statusWritten f v) =
      (statusWord f &&& ~~~(v &&& 0x0000000E) &&& (if v.getLsbD 2 then 0x000000FF else 0xFFFFFFFF)) := by
  have hcode : (~~~(v &&& 0x0000000E)).extractLsb' 8 8 = BitVec.allOnes 8 := by
    ext i hi
    interval_cases i <;> simp
  have hones (x : BitVec 8) : x &&& 255#8 = x := BitVec.and_allOnes
  rw [statusWord_and, statusWord_and, hcode, statusWritten]
  cases h : v.getLsbD 2 <;> rw [BitVec.getLsbD_eq_getElem (by decide)] at h <;> simp [h, hones]

/-! ## A slot's registers -/

/-- A slot written reads back, and no other slot changes (10_state.md R55). -/
theorem getElem_setSlot (td : Vector Desc 8) (n m : Slot) (d : Desc) :
    (td.set n.toNat d n.isLt)[m.toNat]'m.isLt = if n = m then d else td[m.toNat]'m.isLt := by
  rw [Vector.getElem_set]
  simp only [BitVec.toNat_inj]

theorem readReg_write_tdBase (s : State) (v : Word) (n : Slot) :
    readReg (writeReg s (.tdBase n) v) (.tdBase n) = v &&& 0xFFFFFFF8 := by
  simp only [readReg, writeReg, getElem_setSlot, if_true, tdBaseWord_descBaseWritten]

theorem readReg_write_tdSize (s : State) (v : Word) (n : Slot) :
    readReg (writeReg s (.tdSize n) v) (.tdSize n) = v &&& 0x00000F0F := by
  simp only [readReg, writeReg, getElem_setSlot, if_true, tdSizeWord_descSizeWritten]

/-- A slot written leaves every register that its new contents leave. -/
theorem readReg_setSlot {s : State} {n : Slot} {d : Desc} {r : Reg}
    (hb : r = .tdBase n → tdBaseWord d = tdBaseWord (s.td[n.toNat]'n.isLt))
    (hs : r = .tdSize n → tdSizeWord d = tdSizeWord (s.td[n.toNat]'n.isLt)) :
    readReg { s with td := s.td.set n.toNat d n.isLt } r = readReg s r := by
  cases r with
  | tdBase m =>
    simp only [readReg, getElem_setSlot]
    split
    · subst n; exact hb rfl
    · rfl
  | tdSize m =>
    simp only [readReg, getElem_setSlot]
    split
    · subst n; exact hs rfl
    · rfl
  | _ => rfl

theorem readReg_write_tdBase_other (s : State) (v : Word) {n : Slot} {r : Reg} (h : r ≠ .tdBase n) :
    readReg (writeReg s (.tdBase n) v) r = readReg s r := readReg_setSlot (fun e => absurd e h) fun _ => rfl

theorem readReg_write_tdSize_other (s : State) (v : Word) {n : Slot} {r : Reg} (h : r ≠ .tdSize n) :
    readReg (writeReg s (.tdSize n) v) r = readReg s r := readReg_setSlot (fun _ => rfl) fun e => absurd e h

/-! ## The other registers -/

theorem readReg_write_param (s : State) (v : Word) (k : BitVec 6) :
    readReg (writeReg s (.param k) v) (.param k) = v := by
  simp only [readReg, writeReg, Vector.getElem_set_self]

theorem readReg_write_param_other (s : State) (v : Word) {k : BitVec 6} {r : Reg} (h : r ≠ .param k) :
    readReg (writeReg s (.param k) v) r = readReg s r := by
  cases r with
  | param m =>
    have hm : k.toNat ≠ m.toNat := fun e => h (BitVec.eq_of_toNat_eq e ▸ rfl)
    simp only [readReg, writeReg, Vector.getElem_set_ne _ _ hm]
  | _ => rfl

/-- A CTRL write with bit 31 clear stores the two enables alone (10_state.md R43). -/
theorem writeReg_ctrl {s : State} {v : Word} (h : v.getLsbD 31 = false) :
    writeReg s .ctrl v = { s with ctrl := ctrlOfWord v } := by
  simp only [writeReg, writeCtrl, h, Bool.false_eq_true, if_false]

theorem readReg_write_ctrl_other {s : State} {v : Word} (h : v.getLsbD 31 = false) {r : Reg} (hr : r ≠ .ctrl) :
    readReg (writeReg s .ctrl v) r = readReg s r := by
  rw [writeReg_ctrl h]
  cases r with
  | ctrl => exact absurd rfl hr
  | _ => rfl

/-- Settles O23: register by register, what is stored of the word and what else stays. -/
theorem registerWritesReadBack : Obligations.RegisterWritesReadBack := by
  intro s v
  refine ⟨fun n => ⟨readReg_write_tdBase s v n, fun r => readReg_write_tdBase_other s v⟩,
    fun n => ⟨readReg_write_tdSize s v n, fun r => readReg_write_tdSize_other s v⟩,
    fun k => ⟨readReg_write_param s v k, fun r => readReg_write_param_other s v⟩,
    fun h => ⟨?ctrl, fun r => readReg_write_ctrl_other h⟩, ?readOnly,
    statusWord_statusWritten s.status v, rfl, rfl⟩
  case ctrl => rw [writeReg_ctrl h]; exact ctrlWord_ctrlOfWord v
  case readOnly => simp [writeReg]

end Sys2Proof.Machine

/-! What every step keeps of memory and of the record of races: the canonical form, the bounds of the memory
space, and no record but with a running command (20_memory.md R90, R93, R96, R108). -/

namespace Sys2Proof.Machine

/-! ## What the end of a command keeps -/

/-- What a command that answers a next state leaves of what a race is settled by. -/
theorem exec_keeps {i : Instr} {s t : State} (h : exec i s = .next t) :
    t.snap = s.snap ∧ t.port = s.port ∧ t.raced = s.raced := by
  have ht : OnlyCommandEnd s t := (exec_next h).frame.1
  refine ⟨?_, ?_, ?_⟩ <;> rw [ht]

/-- A command that answers a next state has ended (60_exceptions.md R400, R402). -/
theorem exec_not_busy {i : Instr} {s t : State} (h : exec i s = .next t) : t.status.busy = false := by
  rcases exec_next h with ⟨e, rfl⟩ | ⟨-, p, rfl⟩ | ⟨-, rfl⟩ | ⟨n, u, -, -, -, m', sc, fx, -, ht⟩
  · rfl
  · rfl
  · rfl
  · rcases ht with rfl | ⟨-, rfl⟩ <;> rfl

/-- What a race leaves open of a command's results. -/
theorem openResult_cases (i : Instr) (s : State) :
    (∃ d, destSlot i = some d ∧ openResult i s = spoil s (slotTex s.snap d)) ∨
    (destSlot i = none ∧ (usedSlots i = [] ∨ s.port = .bodyError) ∧ openResult i s = s) ∨
    (destSlot i = none ∧ ¬ (usedSlots i = [] ∨ s.port = .bodyError) ∧ openResult i s = spoilRes s) := by
  unfold openResult
  split
  · rename_i d hd; exact .inl ⟨d, hd, rfl⟩
  · rename_i hd
    split
    · rename_i hp; exact .inr (.inl ⟨hd, hp, rfl⟩)
    · rename_i hp; exact .inr (.inr ⟨hd, hp, rfl⟩)

/-- Opening a command's results changes memory, RES and the model's counter only. -/
theorem openResult_eq (i : Instr) (s : State) :
    openResult i s = { s with
      mem := (openResult i s).mem
      resRg := (openResult i s).resRg
      resBa := (openResult i s).resBa
      freeIx := (openResult i s).freeIx } := by
  rcases openResult_cases i s with ⟨d, -, e⟩ | ⟨-, -, e⟩ | ⟨-, -, e⟩ <;> rw [e] <;> rfl

/-! ## Memory -/

/-- Memory is canonical, and it and the raced bytes lie in the memory space. -/
def MemoryFormed (s : State) : Prop := MemoryCanonical s ∧ MemoryInSpace s

theorem closeRace_memoryFormed {s : State} (h : MemoryFormed s) : MemoryFormed (closeRace s) := by
  obtain ⟨hw, hin, hr⟩ := h
  exact ⟨closeRace_wf hw, closeRace_inSpace hin hr, by simp⟩

theorem spoil_memoryFormed {s : State} (h : MemoryFormed s) {d : Tex} (hd : d.fits = true) :
    MemoryFormed (spoil s d) := by
  obtain ⟨hw, hin, hr⟩ := h
  exact ⟨spoil_wf hw d, spoil_inSpace hin hd, hr⟩

/-- Results are opened only of a command whose checks pass, so that its destination fits (20_memory.md R96). -/
theorem openResult_memoryFormed {i : Instr} {s : State} (h : MemoryFormed s)
    (hc : firstError (registerChecks i s.snap) = none) : MemoryFormed (openResult i s) := by
  rcases openResult_cases i s with ⟨d, hd, e⟩ | ⟨-, -, e⟩ | ⟨-, -, e⟩ <;> rw [e]
  · exact spoil_memoryFormed h (dest_ok hd hc).2
  · exact h
  · exact h

/-- A command writes memory at texels of a destination that fits (20_memory.md R96). -/
theorem exec_memoryFormed {i : Instr} {s t : State} (hs : MemoryFormed s) (h : exec i s = .next t) :
    MemoryFormed t := by
  rcases exec_next h with ⟨e, rfl⟩ | ⟨-, p, rfl⟩ | ⟨-, rfl⟩ | ⟨n, u, -, ⟨-, hfits⟩, hu, m', sc, fx, hm, ht⟩
  · exact hs
  · exact hs
  · exact hs
  · have hus : u.mem = s.mem ∧ u.raced = s.raced := by
      rcases hu with rfl | rfl
      · exact ⟨rfl, rfl⟩
      · rw [buildPerm_eq]; exact ⟨rfl, rfl⟩
    obtain ⟨hw, hin, hr⟩ := hs
    rw [hus.1] at hm
    rw [← hus.2] at hr
    rcases ht with rfl | ⟨-, rfl⟩ <;> exact ⟨hm.wf hw, hm.inSpace hfits hin, hr⟩

theorem engineMoved_memoryFormed {s t : State} (hs : MemoryFormed s) (h : EngineMoved s t) : MemoryFormed t := by
  cases h with
  | nothing => exact hs
  | undecoded e => exact closeRace_memoryFormed (s := raiseError s e) hs
  | ended hu => exact exec_memoryFormed hs hu
  | raced hu => exact closeRace_memoryFormed (exec_memoryFormed hs hu)
  | opened hu hc =>
    rw [← (exec_keeps hu).1] at hc
    exact closeRace_memoryFormed (openResult_memoryFormed (exec_memoryFormed hs hu) hc)

theorem abandon_memoryFormed {s : State} (h : MemoryFormed s) : MemoryFormed (abandon s) := by
  rcases abandon_cases s with ⟨-, e⟩ | ⟨-, ⟨-, e⟩ | ⟨d, hd, e⟩⟩ <;> rw [e]
  · exact h
  · exact closeRace_memoryFormed (s := { s with status := statusStopped s.status }) h
  · exact closeRace_memoryFormed (s := { spoil s d with status := statusStopped s.status })
      (spoil_memoryFormed h (runningDest_fits hd))

/-- Of the registers only CTRL, by a soft reset, reaches memory (70_reset_and_hazards.md R452, R453). -/
theorem writeReg_memoryFormed {s : State} (h : MemoryFormed s) (r : Reg) (v : Word) :
    MemoryFormed (writeReg s r v) := by
  cases r with
  | ctrl =>
    simp only [writeReg, writeCtrl]
    split
    · exact abandon_memoryFormed h
    · exact h
  | cmd =>
    simp only [writeReg, writeCmd]
    split
    · exact h
    · exact ⟨h.1, h.2.1, by simp⟩
  | status | tdBase | tdSize | param | id | version | errinfo | resRg | resBa | reserved => exact h

theorem setResetPin_memoryFormed {s : State} (h : MemoryFormed s) (level : Bool) :
    MemoryFormed (setResetPin s level) := by
  unfold setResetPin
  split
  · exact abandon_memoryFormed h
  · split <;> exact h

/-- A racing write opens and records bytes of its own, which lie in the memory space (20_memory.md R90). -/
theorem raceWrite_memoryFormed {s : State} {e : Extent} (h : MemoryFormed s) (he : e.base + e.len ≤ 2 ^ 32) :
    MemoryFormed (raceWrite s e) := by
  obtain ⟨hw, hin, hr⟩ := h
  refine ⟨raceWrite_wf hw e, raceWrite_inSpace hin he, fun a ha => ?_⟩
  rcases mem_raceWrite_raced.1 ha with ha | ⟨⟨-, hlt⟩, -⟩
  · exact hr a ha
  · omega

theorem hostMoved_memoryFormed {s t : State} (hs : MemoryFormed s) (h : HostMoved s t) : MemoryFormed t := by
  cases h with
  | register r v => exact writeReg_memoryFormed hs r v
  | memory addr v w hle =>
    obtain ⟨hw, hin, hr⟩ := hs
    exact ⟨memWrite_wf _ hw _ _, memWrite_inSpace _ hin hle _, hr⟩
  | race e he => exact raceWrite_memoryFormed hs he
  | resetPin level => exact setResetPin_memoryFormed hs level
  | nothing | readData | port => exact hs

/-! ## The record of races -/

/-- A state with nothing running and no race recorded keeps the record right, reset asserted or not. -/
theorem raceFieldsRight_of_idle {s : State} (hb : s.status.busy = false) (hr : s.raced = []) : RaceFieldsRight s :=
  ⟨fun _ => hr, fun _ => hb⟩

/-- The end of a command closes its race (20_memory.md R108). -/
theorem closeRace_raceFieldsRight {s : State} (h : s.status.busy = false) : RaceFieldsRight (closeRace s) :=
  raceFieldsRight_of_idle (by rw [closeRace_eq]; exact h) (closeRace_raced s)

theorem engineMoved_raceFieldsRight {s t : State} (hs : RaceFieldsRight s) (h : EngineMoved s t) :
    RaceFieldsRight t := by
  cases h with
  | nothing => exact hs
  | undecoded e => exact closeRace_raceFieldsRight rfl
  | ended hu hn => exact raceFieldsRight_of_idle (exec_not_busy hu) ((exec_keeps hu).2.2.trans hn)
  | raced hu => exact closeRace_raceFieldsRight (exec_not_busy hu)
  | opened hu => exact closeRace_raceFieldsRight ((congrArg (·.status.busy) (openResult_eq _ _)).trans (exec_not_busy hu))

/-- A reset leaves nothing running, and the race of what ran is closed (70_reset_and_hazards.md R453). -/
theorem abandon_idle {s : State} (hs : RaceFieldsRight s) :
    (abandon s).status.busy = false ∧ (abandon s).raced = [] := by
  rcases abandon_cases s with ⟨hb, e⟩ | ⟨-, ⟨-, e⟩ | ⟨d, -, e⟩⟩ <;> rw [e]
  · exact ⟨hb, hs.1 hb⟩
  · exact ⟨by rw [closeRace_eq]; rfl, closeRace_raced _⟩
  · exact ⟨by rw [closeRace_eq]; rfl, closeRace_raced _⟩

/-- Acceptance starts a record, with the reset input released, and a soft reset closes it (10_state.md R46). -/
theorem writeReg_raceFieldsRight {s : State} (hs : RaceFieldsRight s) (hrst : s.rst = false) (r : Reg) (v : Word) :
    RaceFieldsRight (writeReg s r v) := by
  cases r with
  | ctrl =>
    simp only [writeReg, writeCtrl]
    split
    · exact raceFieldsRight_of_idle rfl (abandon_idle hs).2
    · exact hs
  | cmd =>
    simp only [writeReg, writeCmd]
    split
    · exact hs
    · exact ⟨fun _ => rfl, fun h => absurd (hrst.symm.trans h) Bool.false_ne_true⟩
  | status | tdBase | tdSize | param | id | version | errinfo | resRg | resBa | reserved => exact hs

theorem setResetPin_raceFieldsRight {s : State} (hs : RaceFieldsRight s) (level : Bool) :
    RaceFieldsRight (setResetPin s level) := by
  unfold setResetPin
  split
  · obtain ⟨hb, hr⟩ := abandon_idle hs
    exact raceFieldsRight_of_idle hb hr
  · split
    · rename_i hrst
      exact raceFieldsRight_of_idle rfl (hs.1 (hs.2 hrst))
    · exact hs

/-- Only a running command races (20_memory.md R108). -/
theorem races_idle {s : State} {e : Extent} (h : s.status.busy = false) : races s e = false := by simp [races, h]

theorem busy_of_races {s : State} {e : Extent} (h : races s e = true) : s.status.busy = true := by
  by_contra hb
  rw [races_idle (Bool.eq_false_of_not_eq_true hb)] at h
  exact Bool.false_ne_true h

theorem hostMoved_raceFieldsRight {s t : State} (hs : RaceFieldsRight s) (h : HostMoved s t) :
    RaceFieldsRight t := by
  cases h with
  | register r v hrst => exact writeReg_raceFieldsRight hs hrst r v
  | race e he hr =>
    have hbusy : s.status.busy = true := busy_of_races hr
    exact ⟨fun hb => absurd (hb.symm.trans hbusy) Bool.false_ne_true, hs.2⟩
  | resetPin level => exact setResetPin_raceFieldsRight hs level
  | nothing | readData | memory | port => exact hs

/-- Settles O8: each agent's move keeps memory's form, and the record of races with the command that
runs. -/
theorem stepKeepsMemoryForm : Obligations.StepKeepsMemoryForm := by
  intro s t h
  have hform (hw : MemoryCanonical s) (hin : MemoryInSpace s) : MemoryFormed { s with inputs := s.inputs.tail } :=
    ⟨hw, hin⟩
  have hrace (hr : RaceFieldsRight s) : RaceFieldsRight { s with inputs := s.inputs.tail } := hr
  rcases step_cases s with e | ⟨i, e⟩ <;> rw [e] at h
  · have hmove := engineTurn_next h
    exact ⟨fun hw hin => engineMoved_memoryFormed (hform hw hin) hmove,
      fun hr => engineMoved_raceFieldsRight (hrace hr) hmove⟩
  · have hmove := hostMove_next h
    exact ⟨fun hw hin => hostMoved_memoryFormed (hform hw hin) hmove,
      fun hr => hostMoved_raceFieldsRight (hrace hr) hmove⟩

end Sys2Proof.Machine

/-! Memory byte by byte: the little-endian bytes of a word and of a texel, and the host's accesses to memory
(20_memory.md R92 to R95, R113). -/

namespace Sys2Proof.Machine

/-! ## The bytes of a word -/

theorem extractLsb'_eq_ofNat {n : Nat} (v : BitVec n) (k w : Nat) :
    v.extractLsb' k w = BitVec.ofNat w (v.toNat / 2 ^ k) := by
  rw [BitVec.extractLsb', Nat.shiftRight_eq_div_pow]

theorem two_pow_bytes_succ (n : Nat) : 2 ^ (8 * (n + 1)) = 256 * 2 ^ (8 * n) := by
  rw [Nat.mul_succ, Nat.pow_add, Nat.mul_comm]

/-- Byte `k` of a word written (R93). -/
theorem read_memWrite_byte (n : Nat) {m : Memory} (hm : m.wf) (addr v : Nat) {k : Nat} (hk : k < n) :
    (memWrite m addr v n).read (addr + k) = BitVec.ofNat 8 (v / 2 ^ (8 * k)) := by
  induction n generalizing m addr v k with
  | zero => exact absurd hk (Nat.not_lt_zero k)
  | succ n ih =>
    rw [memWrite]
    cases k with
    | zero => rw [read_memWrite_other _ _ _ (by omega), Nat.add_zero, read_write_same hm]; simp
    | succ k =>
      have hrest := ih (write_wf hm addr (BitVec.ofNat 8 v)) (addr + 1) (v / 256) (k := k) (by omega)
      rw [show addr + (k + 1) = addr + 1 + k by omega, hrest, Nat.div_div_eq_div_mul, ← two_pow_bytes_succ]

/-- A word written, byte by byte as its bits stand (R93). -/
theorem read_memWrite_bits {w n : Nat} {m : Memory} (hm : m.wf) (addr : Nat) (v : BitVec w) {k : Nat} (hk : k < n) :
    (memWrite m addr v.toNat n).read (addr + k) = v.extractLsb' (8 * k) 8 := by
  rw [read_memWrite_byte n hm _ _ hk, extractLsb'_eq_ofNat]

theorem memRead_lt (m : Memory) (addr n : Nat) : memRead m addr n < 2 ^ (8 * n) := by
  induction n generalizing addr with
  | zero => simp [memRead]
  | succ n ih =>
    have hbyte : (m.read addr).toNat < 2 ^ 8 := (m.read addr).isLt
    have hrest := ih (addr + 1)
    rw [memRead, two_pow_bytes_succ]
    omega

/-- A word read in two parts (R93). -/
theorem memRead_add (m : Memory) (addr j k : Nat) :
    memRead m addr (j + k) = memRead m addr j + 2 ^ (8 * j) * memRead m (addr + j) k := by
  induction j generalizing addr with
  | zero => simp [memRead]
  | succ j ih =>
    rw [Nat.succ_add, memRead, memRead, ih, show addr + 1 + j = addr + (j + 1) by omega, two_pow_bytes_succ]
    ring

/-- The part of a word read that `k` of its bytes hold (R93). -/
theorem memRead_part (m : Memory) (addr j k l : Nat) :
    memRead m addr (j + (k + l)) / 2 ^ (8 * j) % 2 ^ (8 * k) = memRead m (addr + j) k := by
  rw [memRead_add, Nat.add_mul_div_left _ _ (Nat.two_pow_pos _), Nat.div_eq_of_lt (memRead_lt _ _ _), Nat.zero_add,
    memRead_add, Nat.add_mul_mod_self_left, Nat.mod_eq_of_lt (memRead_lt _ _ _)]

/-! ## The bytes of a pixel -/

/-- A word of 64 bits is its four channels side by side. -/
theorem append_channels (w : BitVec 64) :
    w = (w.extractLsb' 48 16 ++ w.extractLsb' 32 16 ++ w.extractLsb' 16 16 ++ w.extractLsb' 0 16 : BitVec 64) := by
  iterate 3 rw [BitVec.extractLsb'_append_extractLsb'_eq_extractLsb' (by rfl)]
  exact BitVec.extractLsb'_eq_self.symm

/-- The word of a pixel is its channels side by side (R94). -/
theorem pixelWord_eq_append (p : Pixel) : pixelWord p = (p.a ++ p.b ++ p.g ++ p.r : BitVec 64) :=
  calc pixelWord p
    _ = ((pixelOfWord (pixelWord p)).a ++ (pixelOfWord (pixelWord p)).b ++ (pixelOfWord (pixelWord p)).g ++
          (pixelOfWord (pixelWord p)).r : BitVec 64) := append_channels (pixelWord p)
    _ = (p.a ++ p.b ++ p.g ++ p.r : BitVec 64) := by rw [pixelOfWord_pixelWord]

/-- A halfword read is its two bytes side by side (R93). -/
theorem ofNat_memRead_two (m : Memory) (addr : Nat) :
    BitVec.ofNat 16 (memRead m addr 2) = m.read (addr + 1) ++ m.read addr := by
  have hlow : (m.read addr).toNat < 2 ^ 8 := (m.read addr).isLt
  have hread : memRead m addr 2 = (m.read (addr + 1)).toNat * 2 ^ 8 + (m.read addr).toNat := by
    simp only [memRead]; omega
  apply BitVec.eq_of_toNat_eq
  rw [BitVec.toNat_append, BitVec.toNat_ofNat, Nat.mod_eq_of_lt (memRead_lt m addr 2), hread,
    ← Nat.shiftLeft_eq, Nat.shiftLeft_add_eq_or_of_lt hlow]

/-- Channel `j` of the word of 8 bytes is the two bytes at `2 * j` (R94). -/
theorem memRead_channel (m : Memory) (addr : Nat) {j : Nat} (hj : j < 4) :
    (BitVec.ofNat 64 (memRead m addr 8)).extractLsb' (16 * j) 16 =
      m.read (addr + 2 * j + 1) ++ m.read (addr + 2 * j) := by
  have hpart := memRead_part m addr (2 * j) 2 (6 - 2 * j)
  rw [show 2 * j + (2 + (6 - 2 * j)) = 8 by omega, show 8 * (2 * j) = 16 * j by omega] at hpart
  rw [← ofNat_memRead_two, ← hpart, extractLsb'_eq_ofNat, BitVec.toNat_ofNat, Nat.mod_eq_of_lt (memRead_lt m addr 8)]
  exact BitVec.eq_of_toNat_eq (by simp)

/-- Settles O27: the bytes written are the pixel's word, and each channel read is two bytes of it. -/
theorem texelBytes : Obligations.TexelBytes := by
  intro m t x y p hm
  refine ⟨fun k hk => ?_, fun a ha => ?_, ?_⟩
  · rw [← pixelWord_eq_append]
    exact read_memWrite_bits hm _ _ hk
  · exact read_putPixel_other _ _ (by simp only [Extent.has] at ha; simp only [Tex.addr, Tex.w] at *; omega)
  · exact congr (congr (congr (congrArg Pixel.mk (memRead_channel m _ (j := 0) (by decide)))
      (memRead_channel m _ (j := 1) (by decide))) (memRead_channel m _ (j := 2) (by decide)))
      (memRead_channel m _ (j := 3) (by decide))

/-! ## The host's accesses to memory -/

/-- The inputs are nothing that a command reads. -/
theorem samples_setInputs (s : State) (l : List Input) (e : Extent) (i : Instr) :
    samples { s with inputs := l } e i = samples s e i := by
  have hperm : (buildPerm { s with inputs := l }).perm = (buildPerm s).perm := by
    unfold buildPerm
    split <;> rfl
  cases i with
  | noise => simp only [samples, hperm]
  | _ => rfl

theorem races_setInputs (s : State) (l : List Input) (e : Extent) : races { s with inputs := l } e = races s e := by
  simp only [races, touches, bodyTouches, samples_setInputs]

theorem widthBytes_le (w : Width) : widthBytes w ≤ 8 := by cases w <;> decide

/-- A host access to bytes of the memory space that no window claims is the race, or the access itself. -/
theorem onMemory_inSpace {s : State} {e : Extent} (he : e.base + e.len ≤ 2 ^ 32)
    (hw : reachesWindow s.cfg [e] = false) (race go : State) :
    onMemory s e race go = .next (if races s e then race else go) := by
  unfold onMemory
  rw [if_neg (by omega), hw]
  cases races s e <;> rfl

/-- A host write changes no byte but its own (R93). -/
theorem memWrite_sameOutside (m : Memory) (addr v n : Nat) : SameOutside ⟨addr, n⟩ m (memWrite m addr v n) := by
  intro a ha
  simp only [Extent.has] at ha
  exact read_memWrite_other n m v (by omega)

/-- What fits an access fits the host's data. -/
theorem toNat_hostData {w : Width} {x : Nat} (h : x < 2 ^ (8 * widthBytes w)) : (BitVec.ofNat 64 x).toNat = x := by
  rw [BitVec.toNat_ofNat]
  exact Nat.mod_eq_of_lt (h.trans_le (Nat.pow_le_pow_right (by decide) (by have := widthBytes_le w; omega)))

/-- A host access of width `w` at `addr` is one to memory, and within it (R90, R99). -/
structure InMemory (c : Config) (addr : Nat) (w : Width) : Prop where
  notRegister : inRegBlock c addr = false
  inSpace : addr + widthBytes w ≤ 2 ^ 32
  noWindow : reachesWindow c [⟨addr, widthBytes w⟩] = false

section
variable {s : State} {addr : Nat} {w : Width} {rest : List Input} (hmem : InMemory s.cfg addr w)
include hmem

/-- A host write of memory stores its bytes, or races (R108, R113). -/
theorem step_writeMemory {v : BitVec 64} (hin : s.inputs = .busWrite addr w v :: rest) :
    step s = .next (
      if races s ⟨addr, widthBytes w⟩ then raceWrite { s with inputs := rest } ⟨addr, widthBytes w⟩
      else { s with inputs := rest, mem := memWrite s.mem addr v.toNat (widthBytes w) }) := by
  obtain ⟨hreg, hspace, hwin⟩ := hmem
  rw [step_host hin (by simp), ← races_setInputs s rest, hostMove, busWrite, if_neg (by simp [hreg])]
  exact onMemory_inSpace (s := { s with inputs := rest }) hspace hwin _ _

/-- A host read of memory returns the bytes, or races (R108, R113). -/
theorem step_readMemory (hin : s.inputs = .busRead addr w :: rest) :
    step s = .next (
      if races s ⟨addr, widthBytes w⟩ then raceRead { s with inputs := rest } ⟨addr, widthBytes w⟩
      else { s with inputs := rest, hostData := BitVec.ofNat 64 (memRead s.mem addr (widthBytes w)) }) := by
  obtain ⟨hreg, hspace, hwin⟩ := hmem
  rw [step_host hin (by simp), ← races_setInputs s rest, hostMove, busRead, if_neg (by simp [hreg])]
  exact onMemory_inSpace (s := { s with inputs := rest }) hspace hwin _ _

/-- A write that races with nothing stores its bytes and changes nothing else (R93). -/
theorem step_write_calm {v : BitVec 64} (hin : s.inputs = .busWrite addr w v :: rest) (hm : s.mem.wf)
    (hr : races s ⟨addr, widthBytes w⟩ = false) :
    ∃ t, step s = .next t ∧ t = { s with inputs := rest, mem := t.mem } ∧
      t.mem = memWrite s.mem addr v.toNat (widthBytes w) ∧
      (∀ k < widthBytes w, t.mem.read (addr + k) = v.extractLsb' (8 * k) 8) ∧
      SameOutside ⟨addr, widthBytes w⟩ s.mem t.mem := by
  have hstep := step_writeMemory hmem hin
  rw [if_neg (by simp [hr])] at hstep
  exact ⟨_, hstep, rfl, rfl, fun k hk => read_memWrite_bits hm addr v hk, memWrite_sameOutside _ _ _ _⟩

/-- A read that races with nothing returns the bytes and changes nothing else (R93). -/
theorem step_read_calm (hin : s.inputs = .busRead addr w :: rest) (hr : races s ⟨addr, widthBytes w⟩ = false) :
    ∃ t, step s = .next t ∧ t = { s with inputs := rest, hostData := t.hostData } ∧
      t.hostData.toNat = memRead s.mem addr (widthBytes w) := by
  have hstep := step_readMemory hmem hin
  rw [if_neg (by simp [hr])] at hstep
  exact ⟨_, hstep, rfl, toNat_hostData (memRead_lt _ _ _)⟩

end

/-- Settles O26: an idle engine races with nothing, so that the write stores its bytes and the read returns
them. -/
theorem hostWritesLittleEndian : Obligations.HostWritesLittleEndian := by
  intro s addr w v rest hm hb hreg hspace hwin hin
  obtain ⟨t, hstep, ht, hstored, hbytes, hother⟩ :=
    step_write_calm ⟨hreg, hspace, hwin⟩ hin hm (races_idle hb)
  have hmem : InMemory t.cfg addr w := by rw [ht]; exact ⟨hreg, hspace, hwin⟩
  obtain ⟨u, hread, hu, hdata⟩ :=
    step_read_calm hmem (rest := rest) (by rw [ht]) (races_idle (by rw [ht]; exact hb))
  exact ⟨t, u, hstep, hread, ht, hbytes, hother, hu,
    hdata.trans (by rw [hstored]; exact memRead_memWrite_same _ hm _ _)⟩

end Sys2Proof.Machine

/-! Races: which bytes a command reads or writes, what a racing access leaves, and how a race is settled
(20_memory.md R108, 70_reset_and_hazards.md R462; log 12). -/

namespace Sys2Proof.Machine

/-! ## Meeting ranges -/

theorem meets_iff {e f : Extent} : e.meets f = true ↔ ∃ a, e.has a ∧ f.has a := by
  rw [← Bool.not_eq_false, meets_false, not_forall_not]

/-- An access that meets part of a range meets the range. -/
theorem meets_mono {e f g : Extent} (hfg : ∀ a, f.has a → g.has a) (h : e.meets f = true) : e.meets g = true := by
  obtain ⟨a, he, hf⟩ := meets_iff.1 h
  exact meets_iff.2 ⟨a, he, hfg a hf⟩

theorem meets_empty (e : Extent) (b : Nat) : e.meets ⟨b, 0⟩ = false := by simp [Extent.meets]

theorem mem_slotExtents {k : Snapshot} {ns : List Slot} {f : Extent} :
    f ∈ slotExtents k ns ↔ ∃ n ∈ ns, f = (slotTex k n).extent := by
  induction ns with
  | nil => simp [slotExtents]
  | cons n ns ih => simp [slotExtents, ih]

theorem mem_recordExtents {rs : List InputRecord} {r : InputRecord} (h : r ∈ rs) :
    (recordTex r).extent ∈ recordExtents rs := by
  induction rs with
  | nil => cases h
  | cons r' rs ih =>
    rcases List.mem_cons.1 h with rfl | h
    · exact List.mem_cons_self
    · exact List.mem_cons_of_mem _ (ih h)

/-! ## The texels a sample reads lie in its texture (41_sampler.md R194 to R197) -/

/-- The integer part of a coordinate below 2^24 is a texel's column, or row. -/
theorem shiftRight_lt_size {c sx : Nat} (h : c < 2 ^ 24) (hsx : sx ≤ 24) : c >>> (24 - sx) < 2 ^ sx := by
  rw [Nat.shiftRight_eq_div_pow, Nat.div_lt_iff_lt_mul (Nat.two_pow_pos _), ← Nat.pow_add,
    Nat.add_sub_cancel' hsx]
  exact h

theorem toNat_emod_lt (v : Int) : (v % 2 ^ 24).toNat < 2 ^ 24 := by omega

theorem axisAddr_lt (c : Int) (m : Nat) (k : Bool) : axisAddr c m k < 2 ^ 24 := toNat_emod_lt _

theorem biased_lt (c : Int) (m : Nat) (k : Bool) : biased c m k < 2 ^ 24 := toNat_emod_lt _

/-- A gradient coordinate is nudged below 2^24 (R197). -/
theorem gradCoord_lt (g : GradInset) {t : Tex} (hsx : t.sx ≤ 24) (x : Int) : gradCoord g t x < 2 ^ 24 := by
  unfold gradCoord
  have hle : (clamp x 0 (2 ^ 24)).toNat ≤ 2 ^ 24 := by simp only [clamp]; omega
  generalize (clamp x 0 (2 ^ 24)).toNat = n at hle
  cases g with
  | ulp => simp only [gradInset]; split <;> omega
  | scale =>
    simp only [gradInset]
    rcases Nat.lt_or_eq_of_le hle with hlt | rfl
    · exact (Nat.sub_le _ _).trans_lt hlt
    · have hpos : 0 < 2 ^ 24 >>> t.sx := by
        rw [Nat.shiftRight_eq_div_pow]
        exact Nat.div_pos (Nat.pow_le_pow_right (by decide) hsx) (Nat.two_pow_pos _)
      omega

theorem sizeOk_le {t : Tex} (h : t.sizeOk = true) : t.sx ≤ 24 ∧ t.sy ≤ 24 := by
  simp only [Tex.sizeOk, decide_eq_true_eq, Config.texMaxLog2] at h
  omega

theorem nearestTexels_inTex {t : Tex} (ht : t.sizeOk = true) (x y : Int) (wm : Wrap) :
    ∀ p ∈ nearestTexels t x y wm, InTex t p.1 p.2 := by
  obtain ⟨hsx, hsy⟩ := sizeOk_le ht
  have hx : nearestX t x wm < t.w := shiftRight_lt_size (axisAddr_lt _ _ _) hsx
  have hy : nearestY t y wm < t.h := shiftRight_lt_size (axisAddr_lt _ _ _) hsy
  simp [nearestTexels, InTex, hx, hy]

theorem bilinearTexels_inTex {t : Tex} (ht : t.sizeOk = true) (x y : Int) (wm : Wrap) :
    ∀ p ∈ bilinearTexels t x y wm, InTex t p.1 p.2 := by
  obtain ⟨hsx, hsy⟩ := sizeOk_le ht
  have hx0 : lowerX t x wm < t.w := shiftRight_lt_size (biased_lt _ _ _) hsx
  have hy0 : lowerY t y wm < t.h := shiftRight_lt_size (biased_lt _ _ _) hsy
  have hx1 : upperX t x wm < t.w := Nat.mod_lt _ (Nat.two_pow_pos _)
  have hy1 : upperY t y wm < t.h := Nat.mod_lt _ (Nat.two_pow_pos _)
  simp [bilinearTexels, InTex, hx0, hy0, hx1, hy1]

theorem filteredTexels_inTex {t : Tex} (ht : t.sizeOk = true) (x y : Int) (mode : Mode) :
    ∀ p ∈ filteredTexels t x y mode, InTex t p.1 p.2 := by
  unfold filteredTexels
  split
  · exact bilinearTexels_inTex ht x y mode.wrap
  · exact nearestTexels_inTex ht x y mode.wrap

/-- A gradient's texels lie in its row 0 (R197). -/
theorem gradientTexels_inRow {t : Tex} (ht : t.sizeOk = true) (g : GradInset) (x : Int) :
    ∀ p ∈ gradientTexels g t x, p.1 < t.w ∧ p.2 = 0 := by
  have hlow : gradLower g t x < t.w := shiftRight_lt_size (gradCoord_lt g (sizeOk_le ht).1 x) (sizeOk_le ht).1
  have hhigh : gradUpper g t x < t.w := by unfold gradUpper; omega
  simp [gradientTexels, hlow, hhigh]

theorem gradientTexels_inTex {t : Tex} (ht : t.sizeOk = true) (g : GradInset) (x : Int) :
    ∀ p ∈ gradientTexels g t x, InTex t p.1 p.2 := fun p hp => by
  obtain ⟨hx, hy⟩ := gradientTexels_inRow ht g x p hp
  exact ⟨hx, hy ▸ Nat.two_pow_pos _⟩

theorem onTexels_iff {e : Extent} {t : Tex} {l : List Texel} :
    onTexels e t l = true ↔ ∃ p ∈ l, e.meets ⟨t.addr p.1 p.2, 8⟩ = true := by simp [onTexels]

/-- A sample within its texture meets no more than the texture. -/
theorem onTexels_meets {e : Extent} {t : Tex} {l : List Texel} (hl : ∀ p ∈ l, InTex t p.1 p.2)
    (h : onTexels e t l = true) : e.meets t.extent = true := by
  obtain ⟨p, hp, hm⟩ := onTexels_iff.1 h
  have hin := addr_in_extent t (hl p hp)
  refine meets_mono (fun a ha => ?_) hm
  simp only [Extent.has, Tex.extent] at *
  omega

/-! ## A walk that samples a byte does so at some pixel -/

theorem anyTexel_hit {d : Tex} {hit : Nat → Nat → Bool} (h : anyTexel d hit = true) : ∃ x y, hit x y = true := by
  refine overTex_keeps (P := fun b => b = true → ∃ x y, hit x y = true) (by simp) (fun x y b _ ih hb => ?_) h
  rcases Bool.or_eq_true_iff.1 hb with hb | hb
  · exact ih hb
  · exact ⟨x, y, hb⟩

theorem anyTexelPainting_hit {d : Tex} {f : Nat → Nat → Memory → Pixel} {hit : Nat → Nat → Memory → Bool} {m : Memory}
    (h : anyTexelPainting d f hit m = true) : ∃ x y m', hit x y m' = true := by
  refine overTex_keeps (P := fun c : Memory × Bool => c.2 = true → ∃ x y m', hit x y m' = true) (by simp)
    (fun x y c _ ih hb => ?_) h
  rcases Bool.or_eq_true_iff.1 hb with hb | hb
  · exact ih hb
  · exact ⟨x, y, c.1, hb⟩

theorem anyDrawn_hit {k : Snapshot} {d : Tex} {b : Bounds} {hit : Int → Int → Bool}
    (h : anyDrawn k d b hit = true) : ∃ u v, hit u v = true := by
  refine overBox_keeps (P := fun c => c = true → ∃ u v, hit u v = true) (by simp) (fun _ _ u v c _ ih hb => ?_) h
  rcases Bool.or_eq_true_iff.1 hb with hb | hb
  · exact ih hb
  · exact ⟨u, v, hb⟩

/-- A record that pre-flight passes describes a texture of a legal size (44_combiners.md R371). -/
theorem inputChecks_sizeOk {p : PortAnswer} {rs : List InputRecord} {i : Nat}
    (h : firstError (inputChecks p i rs) = none) : ∀ r ∈ rs, (recordTex r).sizeOk = true := by
  induction rs generalizing i with
  | nil => simp
  | cons r rs ih =>
    rw [inputChecks, firstError_none] at h
    refine List.forall_mem_cons.2 ⟨?_, ih (i := i + 1) (firstError_none.2 fun c hc => h c (by simp [hc]))⟩
    have hsize := h (failIf (!(recordTex r).sizeOk) (errRecord .texsize i 0)) (by simp [recordChecks])
    simpa [failIf_none] using hsize

/-- An access that meets a used texture meets the command's footprint. -/
theorem used_in_footprint {k : Snapshot} {m : Memory} {i : Instr} {e : Extent} {n : Slot} (hn : n ∈ usedSlots i)
    (h : e.meets (slotTex k n).extent = true) : ∃ f ∈ footprint k m i, e.meets f = true :=
  ⟨_, List.mem_append_left _ (mem_slotExtents.2 ⟨n, hn, rfl⟩), h⟩

section
variable {s : State} {e : Extent} {i : Instr} (hslots : ∀ n ∈ usedSlots i, SlotOk s.snap n)
include hslots

theorem gradient_in_footprint {n : Slot} {g : GradInset} {x : Int} (hn : n ∈ usedSlots i)
    (h : onTexels e (slotTex s.snap n) (gradientTexels g (slotTex s.snap n) x) = true) :
    ∃ f ∈ footprint s.snap s.mem i, e.meets f = true :=
  used_in_footprint hn (onTexels_meets (gradientTexels_inTex (hslots n hn).1 g x) h)

theorem filtered_in_footprint {n : Slot} {x y : Int} {mode : Mode} (hn : n ∈ usedSlots i)
    (h : onTexels e (slotTex s.snap n) (filteredTexels (slotTex s.snap n) x y mode) = true) :
    ∃ f ∈ footprint s.snap s.mem i, e.meets f = true :=
  used_in_footprint hn (onTexels_meets (filteredTexels_inTex (hslots n hn).1 x y mode) h)

/-- What a body samples lies in the textures that the command names, its slots and its list checked. -/
theorem samples_meets (hlist : firstError (listChecks i s.snap s.mem .ok) = none) (h : samples s e i = true) :
    ∃ f ∈ footprint s.snap s.mem i, e.meets f = true := by
  cases i with
  | smpNearest a wm =>
    have ha : a ∈ usedSlots (.smpNearest a wm) := by simp [usedSlots]
    exact used_in_footprint ha (onTexels_meets (nearestTexels_inTex (hslots a ha).1 _ _ _) h)
  | smpBilinear a wm =>
    have ha : a ∈ usedSlots (.smpBilinear a wm) := by simp [usedSlots]
    exact used_in_footprint ha (onTexels_meets (bilinearTexels_inTex (hslots a ha).1 _ _ _) h)
  | smpFiltered => exact filtered_in_footprint hslots (by simp [usedSlots]) h
  | smpGradient => exact gradient_in_footprint hslots (by simp [usedSlots]) h
  | noise | cells =>
    rw [samples] at h
    obtain ⟨x, y, h⟩ := anyTexel_hit h
    exact gradient_in_footprint hslots (by simp [usedSlots]) h
  | coordMatrix =>
    rw [samples] at h
    obtain ⟨x, y, h⟩ := anyTexel_hit h
    exact filtered_in_footprint hslots (by simp [usedSlots]) h
  | glowrect =>
    rw [samples] at h
    obtain ⟨u, v, h⟩ := anyDrawn_hit h
    obtain ⟨-, h⟩ := Bool.and_eq_true_iff.1 h
    exact gradient_in_footprint hslots (by simp [usedSlots]) h
  | paste =>
    rw [samples] at h
    obtain ⟨u, v, h⟩ := anyDrawn_hit h
    obtain ⟨-, h⟩ := Bool.and_eq_true_iff.1 h
    exact filtered_in_footprint hslots (by simp [usedSlots]) h
  | colorRemap =>
    rw [samples] at h
    obtain ⟨x, y, m, h⟩ := anyTexelPainting_hit h
    simp only [remapHit, Bool.and_eq_true, Bool.or_eq_true] at h
    obtain ⟨-, (h | h) | h⟩ := h <;> exact gradient_in_footprint hslots (by simp [usedSlots]) h
  | coordRemap =>
    rw [samples] at h
    obtain ⟨x, y, m, h⟩ := anyTexelPainting_hit h
    exact filtered_in_footprint hslots (by simp [usedSlots]) h
  | bump =>
    rw [samples] at h
    obtain ⟨x, y, m, h⟩ := anyTexelPainting_hit h
    simp only [bumpHit, Bool.and_eq_true, Bool.or_eq_true] at h
    obtain ⟨hmap, h⟩ | ⟨hmap, h⟩ := h <;> exact gradient_in_footprint hslots (by simp [usedSlots, hmap]) h
  | linearCombine =>
    rw [samples] at h
    obtain ⟨x, y, h⟩ := anyTexel_hit h
    obtain ⟨r, hr, h⟩ := List.any_eq_true.1 h
    have hsize : (recordTex r).sizeOk = true := inputChecks_sizeOk hlist r hr
    exact ⟨_, List.mem_append_right _ (List.mem_cons_of_mem _ (mem_recordExtents hr)),
      onTexels_meets (filteredTexels_inTex hsize _ _ _) h⟩
  | nop | pixInit8 | pixInit32 | pixLerp | pixAdd | pixMulc | pixOver | pixScreen
  | texCopy | colorMatrix | derive | blur | ternary => exact absurd h Bool.false_ne_true

end

/-! ## What a command reads or writes lies in its textures and its list -/

theorem wholeSlots_used {i : Instr} : ∀ n ∈ wholeSlots i, n ∈ usedSlots i := by
  cases i <;> simp [wholeSlots, destSlot, compatSlots, usedSlots]

theorem length_inputRecords (m : Memory) (l i n : Nat) : (inputRecords m l i n).length = n := by
  induction n generalizing i with
  | zero => rfl
  | succ n ih => simp [inputRecords, ih]

theorem recordsRead_le (i : Nat) (rs : List InputRecord) : recordsRead i rs ≤ rs.length := by
  induction rs generalizing i with
  | nil => exact le_rfl
  | cons r rs ih =>
    have hrest := ih (i + 1)
    rw [recordsRead, List.length_cons]
    split <;> omega

/-- The part of a list that pre-flight reads lies in the list (20_memory.md R111). -/
theorem listRead_meets {k : Snapshot} {m : Memory} {i : Instr} {e : Extent} (h : e.meets (listRead k m i) = true) :
    ∃ f ∈ footprint k m i, e.meets f = true := by
  cases i with
  | cells d a outer => exact ⟨cellList k, by simp [footprint, listExtents], h⟩
  | linearCombine d =>
    refine ⟨inputList k, by simp [footprint, listExtents], meets_mono (fun a ha => ?_) h⟩
    have hread := recordsRead_le 0 (inputListRecords k m)
    rw [inputListRecords, length_inputRecords] at hread
    simp only [listRead, inputList, inputListRecords, Extent.has] at *
    omega
  | _ => exact absurd ((meets_empty e 0).symm.trans h) Bool.false_ne_true

/-- A command reads and writes bytes of its textures and its list only (20_memory.md R108). -/
theorem touches_meets {s : State} {e : Extent} {i : Instr} (h : touches s e i = true) :
    ∃ f ∈ footprint s.snap s.mem i, e.meets f = true := by
  simp only [touches, bodyTouches, Bool.and_eq_true, Bool.or_eq_true, decide_eq_true_eq] at h
  obtain ⟨hchecks, hread | ⟨hlist, hwhole | hsample⟩⟩ := h
  · exact listRead_meets hread
  · obtain ⟨f, hf, hmeets⟩ := List.any_eq_true.1 hwhole
    obtain ⟨n, hn, rfl⟩ := mem_slotExtents.1 hf
    exact used_in_footprint (wholeSlots_used n hn) hmeets
  · exact samples_meets (slots_ok hchecks) hlist hsample

/-! ## Which bytes three commands read or write -/

theorem registerChecks_none {i : Instr} {k : Snapshot} :
    firstError (registerChecks i k) = none ↔
      (∀ n ∈ usedSlots i, SlotOk k n) ∧ firstError (sizeChecks i k) = none ∧ firstError (paramChecks i k) = none := by
  rw [registerChecks, firstError_append, firstError_append, Option.or_eq_none_iff, Option.or_eq_none_iff,
    slotChecks_none, and_assoc]

theorem races_command {s : State} {e : Extent} {i : Instr} (hb : s.status.busy = true)
    (hd : decode s.snap.cmd = .command i) : races s e = touches s e i := by simp [races, hb, hd]

/-- A command without a list that passes its checks touches what its body does. -/
theorem touches_body {s : State} {e : Extent} {i : Instr} (hc : firstError (registerChecks i s.snap) = none)
    (hread : listRead s.snap s.mem i = ⟨0, 0⟩) (hlist : listChecks i s.snap s.mem .ok = []) :
    touches s e i = bodyTouches s e i := by
  simp [touches, hc, hread, hlist, meets_empty, firstError]

/-- The wrapped or clamped coordinate is the one the rule's prose gives (41_sampler.md R193). -/
theorem axisAddr_eq_onAxis (c : Int) (shift : Nat) (k : Bool) :
    (axisAddr c (2 ^ (23 - shift)) k : Int) = onAxis c shift k := by
  have hmod (v : Int) : ((v % 2 ^ 24).toNat : Int) = v % 2 ^ 24 := by omega
  rw [axisAddr, hmod, onAxis, clamp]
  push_cast
  rfl

/-- The texel's column, or row, is the coordinate's bits above the fraction (41_sampler.md R194). -/
theorem texelOf_natCast (c : Nat) {sx : Nat} (hsx : sx ≤ 24) : texelOf c sx = c >>> (24 - sx) := by
  have hpow : 2 ^ 24 = 2 ^ (24 - sx) * 2 ^ sx := by rw [← Nat.pow_add, Nat.sub_add_cancel hsx]
  have hnat : ((c * 2 ^ sx / 2 ^ 24 : Nat) : Int) = (c : Int) * 2 ^ sx / 2 ^ 24 := by push_cast; rfl
  rw [texelOf, ← hnat, Int.toNat_natCast, hpow, Nat.mul_div_mul_right _ _ (Nat.two_pow_pos _),
    Nat.shiftRight_eq_div_pow]

theorem nearestX_eq {t : Tex} (hsx : t.sx ≤ 24) (x : Int) (wm : Wrap) :
    nearestX t x wm = texelOf (onAxis x t.sx wm.clampU) t.sx := by
  rw [← axisAddr_eq_onAxis, texelOf_natCast _ hsx]; rfl

theorem nearestY_eq {t : Tex} (hsy : t.sy ≤ 24) (y : Int) (wm : Wrap) :
    nearestY t y wm = texelOf (onAxis y t.sy wm.clampV) t.sy := by
  rw [← axisAddr_eq_onAxis, texelOf_natCast _ hsy]; rfl

/-- SMP.NEAREST reads its texel (41_sampler.md R194, R200). -/
theorem touches_smpNearest {s : State} {e : Extent} {a : Slot} {wm : Wrap} (ha : SlotOk s.snap a) :
    touches s e (.smpNearest a wm) =
      let t := slotTex s.snap a
      e.meets ⟨t.addr (texelOf (onAxis (param s.snap 0) t.sx wm.clampU) t.sx)
        (texelOf (onAxis (param s.snap 1) t.sy wm.clampV) t.sy), 8⟩ := by
  obtain ⟨hsx, hsy⟩ := sizeOk_le ha.1
  have hc : firstError (registerChecks (.smpNearest a wm) s.snap) = none :=
    registerChecks_none.2 ⟨by simpa [usedSlots] using ha, rfl, rfl⟩
  simp only [touches_body hc rfl rfl, ← nearestX_eq hsx, ← nearestY_eq hsy]
  simp [bodyTouches, wholeSlots, destSlot, slotExtents, samples, onTexels, nearestTexels]

/-- SMP.GRADIENT reads bytes of row 0 (41_sampler.md R197, R203). -/
theorem touches_smpGradient {s : State} {e : Extent} {a : Slot} (h : touches s e (.smpGradient a) = true) :
    e.meets ⟨(slotTex s.snap a).base, 8 * (slotTex s.snap a).w⟩ = true := by
  by_cases hc : firstError (registerChecks (.smpGradient a) s.snap) = none
  · have ha : SlotOk s.snap a := slots_ok hc a (by simp [usedSlots])
    rw [touches_body hc rfl rfl] at h
    have hs : onTexels e (slotTex s.snap a)
        (gradientTexels s.cfg.gradInset (slotTex s.snap a) (param s.snap 0)) = true := by
      simpa [bodyTouches, wholeSlots, destSlot, slotExtents, samples] using h
    obtain ⟨p, hp, hmeets⟩ := onTexels_iff.1 hs
    obtain ⟨hx, hy⟩ := gradientTexels_inRow ha.1 _ _ p hp
    refine meets_mono (fun b hb => ?_) hmeets
    simp only [Extent.has, Tex.addr, hy] at *
    omega
  · rw [touches_failing hc] at h
    exact absurd h Bool.false_ne_true

/-- DERIVE writes every pixel of its destination and reads every pixel of its source (43_filters.md R300). -/
theorem touches_derive {s : State} {e : Extent} {d a : Slot} {normals : Bool} (hd : SlotOk s.snap d)
    (ha : SlotOk s.snap a) (hsame : SameSize s.snap d a) :
    touches s e (.derive d a normals) = (e.meets (slotTex s.snap d).extent || e.meets (slotTex s.snap a).extent) := by
  have hc : firstError (registerChecks (.derive d a normals) s.snap) = none :=
    registerChecks_none.2 ⟨by simpa [usedSlots] using ⟨hd, ha⟩,
      matchChecks_none.2 (by simpa [compatSlots] using hsame), rfl⟩
  rw [touches_body hc rfl rfl]
  simp [bodyTouches, wholeSlots, destSlot, compatSlots, slotExtents, samples]

/-! ## A racing access -/

/-- A racing read returns a value of its width (20_memory.md R108). -/
theorem raceRead_hostData_lt (s : State) (addr : Nat) (w : Width) :
    (raceRead s ⟨addr, widthBytes w⟩).hostData.toNat < 2 ^ (8 * widthBytes w) := by
  have hlt : (Config.freeBits s.freeIx).toNat % 2 ^ (8 * widthBytes w) < 2 ^ (8 * widthBytes w) :=
    Nat.mod_lt _ (Nat.two_pow_pos _)
  rw [raceRead_hostData, toNat_hostData hlt]
  exact hlt

/-- A host read of memory returns a value of its width, and where it races with nothing the bytes it names. -/
theorem step_read {s : State} {addr : Nat} {w : Width} {rest : List Input} (hmem : InMemory s.cfg addr w)
    (hin : s.inputs = .busRead addr w :: rest) :
    ∃ t, step s = .next t ∧ t = { s with inputs := rest, hostData := t.hostData, freeIx := t.freeIx } ∧
      t.hostData.toNat < 2 ^ (8 * widthBytes w) ∧
      (races s ⟨addr, widthBytes w⟩ = false → t.hostData.toNat = memRead s.mem addr (widthBytes w)) := by
  cases hr : races s ⟨addr, widthBytes w⟩ with
  | false =>
    obtain ⟨t, hstep, ht, hdata⟩ := step_read_calm hmem hin hr
    exact ⟨t, hstep, by rw [ht], hdata ▸ memRead_lt _ _ _, fun _ => hdata⟩
  | true =>
    have hstep := step_readMemory hmem hin
    rw [if_pos hr] at hstep
    exact ⟨_, hstep, rfl, raceRead_hostData_lt _ _ _, by simp⟩

/-- A host write of memory changes its own bytes: it stores them, or, where it races, keeps and records those
the command reads or writes. -/
theorem step_write {s : State} {addr : Nat} {w : Width} {v : BitVec 64} {rest : List Input} (hm : s.mem.wf)
    (hmem : InMemory s.cfg addr w) (hin : s.inputs = .busWrite addr w v :: rest) :
    ∃ t, step s = .next t ∧ t = { s with inputs := rest, mem := t.mem, raced := t.raced, freeIx := t.freeIx } ∧
      SameOutside ⟨addr, widthBytes w⟩ s.mem t.mem ∧
      (races s ⟨addr, widthBytes w⟩ = false → t.raced = s.raced ∧
        ∀ k < widthBytes w, t.mem.read (addr + k) = v.extractLsb' (8 * k) 8) ∧
      (races s ⟨addr, widthBytes w⟩ = true →
        (∀ a, a ∈ t.raced ↔ a ∈ s.raced ∨ Extent.has ⟨addr, widthBytes w⟩ a ∧ races s ⟨a, 1⟩ = true) ∧
        ∀ a, races s ⟨a, 1⟩ = true → t.mem.read a = s.mem.read a) := by
  cases hr : races s ⟨addr, widthBytes w⟩ with
  | false =>
    obtain ⟨t, hstep, ht, -, hbytes, hother⟩ := step_write_calm hmem hin hm hr
    exact ⟨t, hstep, by rw [ht], hother, fun _ => ⟨by rw [ht], hbytes⟩, by simp⟩
  | true =>
    have hstep := step_writeMemory hmem hin
    rw [if_pos hr] at hstep
    refine ⟨_, hstep, rfl, fun a ha => raceWrite_read fun h => absurd h ha, by simp, fun _ =>
      ⟨fun a => ?_, fun a ha => ?_⟩⟩
    · rw [mem_raceWrite_raced, races_setInputs]
    · exact raceWrite_read fun _ => (races_setInputs s rest _).trans ha

/-! ## How a race is settled -/

/-- Opening a command's results changes nothing outside its destination. -/
theorem openResult_other {i : Instr} {s : State} {a : Nat}
    (ha : ∀ d, destSlot i = some d → ¬ (slotTex s.snap d).extent.has a) :
    (openResult i s).mem.read a = s.mem.read a := by
  rcases openResult_cases i s with ⟨d, hd, e⟩ | ⟨-, -, e⟩ | ⟨-, -, e⟩ <;> rw [e]
  · exact spoil_sameOutside s _ a (ha d hd)
  · rfl

/-- RES is opened only of a command that samples and whose body the port let end (60_exceptions.md R406). -/
theorem openResult_res {i : Instr} {s : State} (h : destSlot i ≠ none ∨ usedSlots i = [] ∨ s.port = .bodyError) :
    (openResult i s).resRg = s.resRg ∧ (openResult i s).resBa = s.resBa := by
  rcases openResult_cases i s with ⟨d, -, e⟩ | ⟨-, -, e⟩ | ⟨hd, hp, e⟩
  · rw [e]; exact ⟨rfl, rfl⟩
  · rw [e]; exact ⟨rfl, rfl⟩
  · exact absurd h (not_or.2 ⟨not_not.2 hd, hp⟩)

/-- A race closed after a command's end `u`, or after its results are opened, is settled. -/
theorem closeRace_settledFrom {i : Instr} {s u v : State} (hraced : u.raced = s.raced)
    (hv : v = { u with mem := v.mem, resRg := v.resRg, resBa := v.resBa, freeIx := v.freeIx })
    (hres : destSlot i ≠ none ∨ usedSlots i = [] ∨ s.port = .bodyError → v.resRg = u.resRg ∧ v.resBa = u.resBa)
    (hmem : ∀ a, (∀ d, destSlot i = some d → ¬ (slotTex s.snap d).extent.has a) → v.mem.read a = u.mem.read a) :
    SettledFrom i s u (closeRace v) := by
  have hclose := closeRace_eq v
  have hvr : v.raced = s.raced := by rw [hv]; exact hraced
  refine ⟨?_, fun h => ?_, fun a ha hd => ?_⟩
  · rw [hclose, hv]
  · rw [hclose]; exact hres h
  · exact (closeRace_other (hvr ▸ ha)).trans (hmem a hd)

/-- What a race leaves of a command's end: any value at the raced bytes and in the results (20_memory.md
R108). -/
theorem settle_settledFrom {i : Instr} {s u : State} (hraced : s.raced ≠ []) (hu : exec i s = .next u) :
    SettledFrom i s u (settle i s u) := by
  obtain ⟨hsnap, hport, hr⟩ := exec_keeps hu
  unfold settle
  rw [if_neg hraced]
  split
  · refine closeRace_settledFrom hr (openResult_eq i u) (fun h => openResult_res (hport ▸ h)) fun a ha => ?_
    exact openResult_other (hsnap ▸ ha)
  · exact closeRace_settledFrom hr rfl (fun _ => ⟨rfl, rfl⟩) fun _ _ => rfl

/-- Settles O28: a host access races by the bytes the running command touches, and the command's end settles
what a racing write left. -/
theorem racingAccessesTakeAnyValue : Obligations.RacingAccessesTakeAnyValue := by
  refine ⟨?access, ?bytes, ?settled⟩
  case access =>
    intro s addr w rest hm hreg hspace hwin
    exact ⟨step_read ⟨hreg, hspace, hwin⟩, fun v => step_write hm ⟨hreg, hspace, hwin⟩⟩
  case bytes =>
    intro s i e hd
    refine ⟨races_idle, ?failing, ?inFootprint, fun hb hslots => ?_⟩
    case failing =>
      rintro ⟨n, hn, hbad⟩
      have hc : firstError (registerChecks i s.snap) ≠ none := fun hc => hbad (slots_ok hc n hn)
      simp [races, hd, touches_failing hc]
    case inFootprint =>
      intro h
      rw [races_command (busy_of_races h) hd] at h
      exact touches_meets h
    rw [races_command hb hd]
    refine ⟨?nearest, ?gradient, ?derive⟩
    case nearest =>
      rintro a wm rfl
      rw [touches_smpNearest (hslots a (by simp [usedSlots]))]
    case gradient =>
      rintro a rfl
      exact touches_smpGradient
    case derive =>
      rintro d a normals rfl hsame
      rw [touches_derive (hslots d (by simp [usedSlots])) (hslots a (by simp [usedSlots])) hsame, Bool.or_eq_true]
  case settled =>
    intro s u i hrst hb hd hin hraced hu
    have hstep : step s = .next (settle i s u) := by
      have hrun : nextMove s = engineTurn s := by simp [nextMove, hin]
      rw [step, hrun, engineTurn_running hrst hb, runCommand_command hd, hu]
      rfl
    exact ⟨_, hstep, settle_settledFrom hraced hu⟩

end Sys2Proof.Machine

/-! The command word and its rows: a word is its fields, what a row of the opcode map reads from a word, and
the lowest bit that a row refuses (30_encoding.md R121 to R131). -/

namespace Sys2Proof

/-! ## A word is its fields (R121) -/

/-- M as a number (R121). -/
def modeNumber (w : Word) : BitVec 3 := w.extractLsb' 23 3

theorem modeBits_modeField (w : Word) : modeBits (modeField w) = modeNumber w := by
  have hbits : ∀ m : BitVec 3, numberOf (m.getLsbD 2) (m.getLsbD 1) (m.getLsbD 0) = m := by decide
  simpa [modeNumber, modeBits, modeField, wrapField] using hbits (modeNumber w)

theorem wordOf_fields (w : Word) :
    wordOf (opField w) (dField w) (aField w) (bField w) (cField w) (eField w) (modeNumber w) (subField w) = w := by
  ext i hi
  simp only [wordOf, place, opField, dField, aField, bField, cField, eField, modeNumber, subField, BitVec.getElem_or,
    BitVec.getElem_shiftLeft, BitVec.getElem_setWidth, BitVec.getLsbD_extractLsb']
  interval_cases i <;> simp

/-! ## What a word that a row's mask accepts holds (R123) -/

/-- A field of an accepted word, masked by that field of the mask, is that field of the pattern. -/
theorem field_and {w mask pattern : Word} (h : w &&& mask = pattern) {k n : Nat} {x y : BitVec n}
    (hmask : mask.extractLsb' k n = x := by decide) (hpattern : pattern.extractLsb' k n = y := by decide) :
    w.extractLsb' k n &&& x = y := by
  rw [← hmask, ← hpattern, ← h, BitVec.extractLsb'_and]

/-- A field is the pattern's where the mask covers it. -/
theorem fixed_field {w mask pattern : Word} (h : w &&& mask = pattern) {k n : Nat} {x : BitVec n}
    (hmask : mask.extractLsb' k n = BitVec.allOnes n := by decide)
    (hpattern : pattern.extractLsb' k n = x := by decide) : w.extractLsb' k n = x :=
  BitVec.and_allOnes.symm.trans (field_and h hmask hpattern)

/-- The word put together from fields is `w` when each field is that of `w`. A field whose reading is not
given is one that the mask fixes, by the word's acceptance in the context. -/
theorem wordOf_eq {w : Word} {op : BitVec 8} {d a b c e : Slot} {m : BitVec 3} {s : BitVec 6}
    (hop : opField w = op := by exact fixed_field (by assumption))
    (hd : dField w = d := by exact fixed_field (by assumption))
    (ha : aField w = a := by exact fixed_field (by assumption))
    (hb : bField w = b := by exact fixed_field (by assumption))
    (hc : cField w = c := by exact fixed_field (by assumption))
    (he : eField w = e := by exact fixed_field (by assumption))
    (hm : modeNumber w = m := by exact fixed_field (by assumption))
    (hs : subField w = s := by exact fixed_field (by assumption)) :
    wordOf op d a b c e m s = w := by
  subst hop hd ha hb hc he hm hs
  exact wordOf_fields w

theorem opField_mask (i : Instr) : opField (matchMask i).2 = BitVec.allOnes 8 := by
  cases i <;> simp only [matchMask] <;> decide

theorem opField_of_masked {w : Word} {i : Instr} (h : w &&& (matchMask i).2 = (matchMask i).1) :
    opField w = opField (matchMask i).1 :=
  fixed_field h (opField_mask i) rfl

/-- M with M[2] = 0 is its wrap bits (R124). -/
theorem modeNumber_eq_wrapBits {w : Word} (h : modeNumber w &&& 4 = 0) : modeNumber w = wrapBits (wrapField w) := by
  have hbits : ∀ m : BitVec 3, m &&& 4 = 0 → m = numberOf false (m.getLsbD 1) (m.getLsbD 0) := by decide
  simpa [modeNumber, wrapBits, wrapField] using hbits (modeNumber w) h

/-- S with S[5:1] = 0 is its lowest bit (R125). -/
theorem subField_eq_subBits_one {w : Word} (h : subField w &&& 0x3E = 0) :
    subField w = subBits (subBit w 0) false false := by
  have hbits : ∀ s : BitVec 6, s &&& 0x3E = 0 → s = subBits (s.getLsbD 0) false false := by decide
  simpa [subField, subBit] using hbits (subField w) h

/-- S with S[5:3] = 0 is its three lowest bits (R125). -/
theorem subField_eq_subBits_three {w : Word} (h : subField w &&& 0x38 = 0) :
    subField w = subBits (subBit w 0) (subBit w 1) (subBit w 2) := by
  have hbits : ∀ s : BitVec 6, s &&& 0x38 = 0 → s = subBits (s.getLsbD 0) (s.getLsbD 1) (s.getLsbD 2) := by decide
  simpa [subField, subBit] using hbits (subField w) h

/-- A command's word carries its row's fixed bits. -/
theorem Laws.maskMatch (i : Instr) : Laws.MaskMatch.Statement i := by
  cases i with
  | nop => exact MaskMatch.nop
  | smpNearest a wm => exact MaskMatch.smpNearest a wm
  | smpBilinear a wm => exact MaskMatch.smpBilinear a wm
  | smpFiltered a m => exact MaskMatch.smpFiltered a m
  | smpGradient a => exact MaskMatch.smpGradient a
  | pixInit8 => exact MaskMatch.pixInit8
  | pixInit32 => exact MaskMatch.pixInit32
  | pixLerp => exact MaskMatch.pixLerp
  | pixAdd => exact MaskMatch.pixAdd
  | pixMulc => exact MaskMatch.pixMulc
  | pixOver => exact MaskMatch.pixOver
  | pixScreen => exact MaskMatch.pixScreen
  | texCopy d a => exact MaskMatch.texCopy d a
  | noise d a abs normalize bandlimit => exact MaskMatch.noise d a abs normalize bandlimit
  | cells d a outer => exact MaskMatch.cells d a outer
  | glowrect d a b => exact MaskMatch.glowrect d a b
  | colorMatrix d a premult => exact MaskMatch.colorMatrix d a premult
  | coordMatrix d a m => exact MaskMatch.coordMatrix d a m
  | colorRemap d a b c e => exact MaskMatch.colorRemap d a b c e
  | coordRemap d a b m => exact MaskMatch.coordRemap d a b m
  | derive d a normals => exact MaskMatch.derive d a normals
  | blur d a wm => exact MaskMatch.blur d a wm
  | ternary d a b c select => exact MaskMatch.ternary d a b c select
  | paste d a b m op => exact MaskMatch.paste d a b m op
  | bump d a b c e directional spec falloff => exact MaskMatch.bump d a b c e directional spec falloff
  | linearCombine d => exact MaskMatch.linearCombine d

/-! ## What a row reads from a word (R130) -/

/-- What the row of `i` reads from the word `w` once its mask accepts it; the operands of `i` play no part. -/
def rowReading (w : Word) : Instr → Decoded
  | .nop => .command .nop
  | .smpNearest .. => .command (.smpNearest (aField w) (wrapField w))
  | .smpBilinear .. => .command (.smpBilinear (aField w) (wrapField w))
  | .smpFiltered .. => .command (.smpFiltered (aField w) (modeField w))
  | .smpGradient .. => .command (.smpGradient (aField w))
  | .pixInit8 => .command .pixInit8
  | .pixInit32 => .command .pixInit32
  | .pixLerp => .command .pixLerp
  | .pixAdd => .command .pixAdd
  | .pixMulc => .command .pixMulc
  | .pixOver => .command .pixOver
  | .pixScreen => .command .pixScreen
  | .texCopy .. => .command (.texCopy (dField w) (aField w))
  | .noise .. => .command (.noise (dField w) (aField w) (subBit w 0) (subBit w 1) (subBit w 2))
  | .cells .. => .command (.cells (dField w) (aField w) (subBit w 0))
  | .glowrect .. => .command (.glowrect (dField w) (aField w) (bField w))
  | .colorMatrix .. => .command (.colorMatrix (dField w) (aField w) (subBit w 0))
  | .coordMatrix .. => .command (.coordMatrix (dField w) (aField w) (modeField w))
  | .colorRemap .. => .command (.colorRemap (dField w) (aField w) (bField w) (cField w) (eField w))
  | .coordRemap .. => .command (.coordRemap (dField w) (aField w) (bField w) (modeField w))
  | .derive .. => .command (.derive (dField w) (aField w) (subBit w 0))
  | .blur .. => .command (.blur (dField w) (aField w) (wrapField w))
  | .ternary .. => .command (.ternary (dField w) (aField w) (bField w) (cField w) (subBit w 0))
  | .paste .. => checkBlend (subField w) (.paste (dField w) (aField w) (bField w) (modeField w))
  | .bump .. => checkBump (.bump (dField w) (aField w) (bField w) (cField w) (eField w)
      (subBit w 0) (subBit w 1) (subBit w 2))
  | .linearCombine .. => .command (.linearCombine (dField w))

/-- A word with a row's opcode is decoded by that row. -/
theorem decode_of_opField {w : Word} {i : Instr} (h : opField w = opField (matchMask i).1) :
    decode w = masked w (matchMask i).1 (matchMask i).2 (rowReading w i) := by
  unfold decode
  rw [h]
  cases i <;> rfl

theorem decode_of_masked {w : Word} {i : Instr} (h : w &&& (matchMask i).2 = (matchMask i).1) :
    decode w = rowReading w i := by
  rw [decode_of_opField (opField_of_masked h), masked, if_pos h]

/-- One command of each row of the opcode map. -/
def rowCommands : List Instr :=
  [.nop, .smpNearest 0 default, .smpBilinear 0 default, .smpFiltered 0 default,
   .smpGradient 0, .pixInit8, .pixInit32, .pixLerp, .pixAdd, .pixMulc, .pixOver, .pixScreen, .texCopy 0 0,
   .noise 0 0 false false false, .cells 0 0 false, .glowrect 0 0 0, .colorMatrix 0 0 false,
   .coordMatrix 0 0 default, .colorRemap 0 0 0 0 0, .coordRemap 0 0 0 default,
   .derive 0 0 false, .blur 0 0 default, .ternary 0 0 0 0 false, .paste 0 0 0 default .add,
   .bump 0 0 0 0 0 false false false, .linearCombine 0]

/-- An OP that is no row's is refused (R131 (1)). -/
theorem decode_of_unlisted {w : Word} (h : ∀ i : Instr, opField w ≠ opField (matchMask i).1) :
    decode w = .error ⟨.opcode, 0⟩ := by
  have hrows : ∀ i ∈ rowCommands, (opField w).toNat ≠ (opField (matchMask i).1).toNat :=
    fun i _ heq => h i (BitVec.eq_of_toNat_eq heq)
  unfold decode
  generalize (opField w).toNat = op at hrows ⊢
  simp only [rowCommands, List.forall_mem_cons, matchMask, opField, BitVec.reduceExtractLsb',
    BitVec.reduceToNat] at hrows
  split
  case h_27 => rfl
  all_goals omega

/-! ## A row reads a command from that command's word, and only from it -/

theorem blendOfNumber_blendNumber (op : Blend) : blendOfNumber (blendNumber op) = some op := by cases op <;> rfl

theorem blendNumber_of_blendOfNumber {s : BitVec 6} {op : Blend} (h : blendOfNumber s = some op) :
    s = blendNumber op := by
  have hall : ∀ s : BitVec 6, ∀ op ∈ blendOfNumber s, s = blendNumber op := by decide
  exact hall s op h

/-- The blend-mode numbers that name none are those from 12 (R125). -/
theorem blendOfNumber_isSome (s : BitVec 6) : (blendOfNumber s).isSome = decide (s.toNat < 12) := by
  revert s
  decide

theorem checkBlend_eq_command {s : BitVec 6} {f : Blend → Instr} {j : Instr} :
    checkBlend s f = .command j ↔ ∃ op, blendOfNumber s = some op ∧ f op = j := by
  unfold checkBlend
  split <;> simp [*]

theorem checkBump_eq_command {i j : Instr} : checkBump i = .command j ↔ i.wf = true ∧ i = j := by
  unfold checkBump Instr.wf
  cases i.unusedCZero <;> cases i.unusedEZero <;> simp

theorem wrapField_wordOf_wrapBits (op : BitVec 8) (d a b c e : Slot) (wm : Wrap) (s : BitVec 6) :
    wrapField (wordOf op d a b c e (wrapBits wm) s) = wm := by
  have hbits : ∀ u v : Bool, let x := wrapBits ⟨u, v⟩
    (⟨x.getLsbD 0, x.getLsbD 1⟩ : Wrap) = ⟨u, v⟩ := by decide
  exact (congrArg Mode.wrap (modeField_wordOf ..)).trans (hbits wm.clampU wm.clampV)

theorem modeField_wordOf_modeBits (op : BitVec 8) (d a b c e : Slot) (m : Mode) (s : BitVec 6) :
    modeField (wordOf op d a b c e (modeBits m) s) = m := by
  have hbits : ∀ u v f : Bool, let x := modeBits ⟨⟨u, v⟩, f⟩
    (⟨⟨x.getLsbD 0, x.getLsbD 1⟩, x.getLsbD 2⟩ : Mode) = ⟨⟨u, v⟩, f⟩ := by decide
  exact (modeField_wordOf ..).trans (hbits m.wrap.clampU m.wrap.clampV m.bilinear)

theorem subBit_wordOf_subBits (op : BitVec 8) (d a b c e : Slot) (m : BitVec 3) (x y z : Bool) :
    let w := wordOf op d a b c e m (subBits x y z)
    subBit w 0 = x ∧ subBit w 1 = y ∧ subBit w 2 = z := by
  have hbits : ∀ x y z : Bool, (subBits x y z).getLsbD 0 = x ∧ (subBits x y z).getLsbD 1 = y ∧
      (subBits x y z).getLsbD 2 = z := by decide
  have hbit := subBit_wordOf op d a b c e m (subBits x y z)
  simpa only [hbit 0 (by decide), hbit 1 (by decide), hbit 2 (by decide)] using hbits x y z

theorem unusedCZero_bump {d a b c e : Slot} {directional spec falloff : Bool} :
    (Instr.bump d a b c e directional spec falloff).unusedCZero = true ↔ spec = true ∨ c = 0 := by
  rw [Instr.unusedCZero, Bool.or_eq_true, beq_iff_eq]

theorem unusedEZero_bump {d a b c e : Slot} {directional spec falloff : Bool} :
    (Instr.bump d a b c e directional spec falloff).unusedEZero = true ↔ falloff = true ∨ e = 0 := by
  rw [Instr.unusedEZero, Bool.or_eq_true, beq_iff_eq]

/-- The row of a well-formed command reads it from its word. -/
theorem rowReading_encode {i : Instr} (hwf : i.wf = true) : rowReading (encode i) i = .command i := by
  cases i with
  | paste d a b m op =>
    rw [rowReading, checkBlend_eq_command]
    refine ⟨op, ?_, ?_⟩
    · simp only [encode, subField_wordOf, blendOfNumber_blendNumber]
    · simp only [encode, dField_wordOf, aField_wordOf, bField_wordOf, modeField_wordOf_modeBits]
  | bump d a b c e directional spec falloff =>
    rw [rowReading, checkBump_eq_command]
    simp only [encode, dField_wordOf, aField_wordOf, bField_wordOf, cField_wordOf, eField_wordOf,
      subBit_wordOf_subBits]
    exact ⟨hwf, trivial⟩
  | _ =>
    simp only [rowReading, encode, dField_wordOf, aField_wordOf, bField_wordOf, cField_wordOf, eField_wordOf,
      subBit_wordOf_subBits, wrapField_wordOf_wrapBits, modeField_wordOf_modeBits]

/-- A word that a row accepts is the word of the command that the row reads from it, which is well formed. -/
theorem encode_of_rowReading {w : Word} {i j : Instr} (h : w &&& (matchMask i).2 = (matchMask i).1)
    (hr : rowReading w i = .command j) : j.wf = true ∧ encode j = w := by
  have hm := (modeBits_modeField w).symm
  cases i <;> simp only [matchMask] at h <;>
    simp only [rowReading, Decoded.command.injEq, checkBlend_eq_command, checkBump_eq_command] at hr
  case nop | pixInit8 | pixInit32 | pixLerp | pixAdd | pixMulc | pixOver | pixScreen =>
    exact hr ▸ ⟨rfl, wordOf_eq⟩
  case smpNearest | smpBilinear =>
    exact hr ▸ ⟨rfl, wordOf_eq (ha := rfl) (hm := modeNumber_eq_wrapBits (field_and h))⟩
  case smpFiltered =>
    exact hr ▸ ⟨rfl, wordOf_eq (ha := rfl) (hm := hm)⟩
  case smpGradient =>
    exact hr ▸ ⟨rfl, wordOf_eq (ha := rfl)⟩
  case texCopy =>
    exact hr ▸ ⟨rfl, wordOf_eq (hd := rfl) (ha := rfl)⟩
  case noise =>
    exact hr ▸ ⟨rfl, wordOf_eq (hd := rfl) (ha := rfl) (hs := subField_eq_subBits_three (field_and h))⟩
  case cells | colorMatrix | derive =>
    exact hr ▸ ⟨rfl, wordOf_eq (hd := rfl) (ha := rfl) (hs := subField_eq_subBits_one (field_and h))⟩
  case glowrect =>
    exact hr ▸ ⟨rfl, wordOf_eq (hd := rfl) (ha := rfl) (hb := rfl)⟩
  case coordMatrix =>
    exact hr ▸ ⟨rfl, wordOf_eq (hd := rfl) (ha := rfl) (hm := hm)⟩
  case colorRemap =>
    exact hr ▸ ⟨rfl, wordOf_eq (hd := rfl) (ha := rfl) (hb := rfl) (hc := rfl) (he := rfl)⟩
  case coordRemap =>
    exact hr ▸ ⟨rfl, wordOf_eq (hd := rfl) (ha := rfl) (hb := rfl) (hm := hm)⟩
  case blur =>
    exact hr ▸ ⟨rfl, wordOf_eq (hd := rfl) (ha := rfl) (hm := modeNumber_eq_wrapBits (field_and h))⟩
  case ternary =>
    exact hr ▸ ⟨rfl,
      wordOf_eq (hd := rfl) (ha := rfl) (hb := rfl) (hc := rfl) (hs := subField_eq_subBits_one (field_and h))⟩
  case paste =>
    obtain ⟨op, hop, rfl⟩ := hr
    exact ⟨rfl, wordOf_eq (hd := rfl) (ha := rfl) (hb := rfl) (hm := hm) (hs := blendNumber_of_blendOfNumber hop)⟩
  case bump =>
    obtain ⟨hwf, rfl⟩ := hr
    exact ⟨hwf, wordOf_eq (hd := rfl) (ha := rfl) (hb := rfl) (hc := rfl) (he := rfl)
      (hs := subField_eq_subBits_three (field_and h))⟩
  case linearCombine =>
    exact hr ▸ ⟨rfl, wordOf_eq (hd := rfl)⟩

/-- Every row but PASTE's and BUMP's reads a command from any word. -/
theorem rowReading_eq_command (w : Word) (i : Instr) :
    (∃ c, rowReading w i = .command c) ∨ opField (matchMask i).1 = 0x41 ∨ opField (matchMask i).1 = 0x42 := by
  cases i with
  | paste => exact .inr (.inl (by simp only [matchMask]; decide))
  | bump => exact .inr (.inr (by simp only [matchMask]; decide))
  | _ => exact .inl ⟨_, rfl⟩

/-- A word that decodes to a command is accepted by a row, and the row reads the command from it. -/
theorem row_of_decode_eq_command {w : Word} {j : Instr} (h : decode w = .command j) :
    ∃ i, w &&& (matchMask i).2 = (matchMask i).1 ∧ rowReading w i = .command j := by
  by_cases hrow : ∃ i, opField w = opField (matchMask i).1
  · obtain ⟨i, hi⟩ := hrow
    rw [decode_of_opField hi, masked] at h
    split at h
    next haccepted => exact ⟨i, haccepted, h⟩
    next => cases h
  · rw [decode_of_unlisted (not_exists.mp hrow)] at h
    cases h

/-! ## The lowest bit that a row refuses (R123) -/

/-- A search that passes a set bit stops at the lowest one. -/
theorem lowestFrom_spec {x : Word} {j : Nat} (hj : x.getLsbD j = true) :
    ∀ fuel k, k ≤ j → j < k + fuel →
      x.getLsbD (lowestFrom x k fuel) = true ∧ lowestFrom x k fuel ≤ j ∧
        ∀ b, k ≤ b → b < lowestFrom x k fuel → x.getLsbD b = false
  | 0, k, hle, hlt => by omega
  | fuel + 1, k, hle, hlt => by
    rw [lowestFrom]
    split
    next hk => exact ⟨hk, hle, fun b _ _ => by omega⟩
    next hk =>
      have hne : k ≠ j := fun heq => hk (heq ▸ hj)
      obtain ⟨hset, hmin, hbelow⟩ := lowestFrom_spec hj fuel (k + 1) (by omega) (by omega)
      refine ⟨hset, hmin, fun b hkb hb => ?_⟩
      rcases hkb.eq_or_lt with rfl | hlt
      · simpa using hk
      · exact hbelow b hlt hb

theorem lowestSet_spec {x : Word} (h : x ≠ 0) :
    lowestSet x < 32 ∧ x.getLsbD (lowestSet x) = true ∧ ∀ b < lowestSet x, x.getLsbD b = false := by
  obtain ⟨j, hlt, hj⟩ : ∃ j, j < 32 ∧ x.getLsbD j = true := by
    by_contra hnone
    refine h (BitVec.eq_of_getLsbD_eq fun j hlt => ?_)
    simpa using fun hset => hnone ⟨j, hlt, hset⟩
  obtain ⟨hset, hmin, hbelow⟩ := lowestFrom_spec hj 32 0 j.zero_le (by omega)
  exact ⟨hmin.trans_lt hlt, hset, fun b hb => hbelow b b.zero_le hb⟩

/-- Above the opcode a row's pattern is zero. -/
theorem pattern_getLsbD (i : Instr) {k : Nat} (h : 8 ≤ k) : (matchMask i).1.getLsbD k = false := by
  have hop : (matchMask i).1 = (opField (matchMask i).1).setWidth 32 := by
    cases i <;> simp only [matchMask] <;> decide
  rw [hop, BitVec.getLsbD_setWidth, BitVec.getLsbD_of_ge _ k h, Bool.and_false]

/-- A row whose opcode a word holds agrees with the word in the opcode's bits. -/
theorem masked_getLsbD_of_opField {w : Word} {i : Instr} (h : opField w = opField (matchMask i).1) {k : Nat}
    (hk : k < 8) : (w &&& (matchMask i).2).getLsbD k = (matchMask i).1.getLsbD k := by
  have hop : opField (w &&& (matchMask i).2) = opField (matchMask i).1 :=
    (fixed_field rfl (opField_mask i) rfl).symm.trans h
  simpa [opField, hk] using congrArg (fun x : BitVec 8 => x.getLsbD k) hop

/-- A word with a row's opcode that the row's mask refuses: the lowest bit that differs is a set bit of an
unused field. -/
theorem lowestSet_refused {w : Word} {i : Instr} (hop : opField w = opField (matchMask i).1)
    (h : w &&& (matchMask i).2 ≠ (matchMask i).1) :
    let k := lowestSet ((w &&& (matchMask i).2) ^^^ (matchMask i).1)
    k < 32 ∧ (w &&& (matchMask i).2).getLsbD k = true ∧ (matchMask i).1.getLsbD k = false ∧
      ∀ j < k, (w &&& (matchMask i).2).getLsbD j = (matchMask i).1.getLsbD j := by
  intro k
  obtain ⟨hlt, hset, hbelow⟩ := lowestSet_spec (mt BitVec.xor_eq_zero_iff.mp h)
  simp only [BitVec.getLsbD_xor, ← Bool.not_eq_true, Bool.xor_iff_ne, not_not] at hset hbelow
  have hk : 8 ≤ k := by
    by_contra hk
    exact hset (masked_getLsbD_of_opField hop (by omega))
  have hpattern := pattern_getLsbD i hk
  exact ⟨hlt, by rwa [hpattern, Ne, Bool.not_eq_false] at hset, hpattern, hbelow⟩

/-! ## The statements -/

/-- Settles O1: the row of a command accepts its word and reads the command back. -/
theorem decodeOfEncode : Obligations.DecodeOfEncode := fun i hwf =>
  (decode_of_masked (Laws.maskMatch i)).trans (rowReading_encode hwf)

/-- Settles O2: the row that accepts the word fixes every bit that is no operand's. -/
theorem encodeOfDecode : Obligations.EncodeOfDecode := by
  intro w j h
  obtain ⟨i, haccepted, hread⟩ := row_of_decode_eq_command h
  exact encode_of_rowReading haccepted hread

/-- Settles O4, by the lowest bit that the row refuses, which lies above the opcode. -/
theorem unusedBitsMustBeZero : Obligations.UnusedBitsMustBeZero := by
  intro w i hop
  constructor
  · intro hrefused
    obtain ⟨hlt, hset, hpattern, hbelow⟩ := lowestSet_refused hop hrefused
    simp only [BitVec.getLsbD_and] at hset hbelow
    refine ⟨_, hlt, ?_, hset, hpattern, hbelow⟩
    rw [decode_of_opField hop, masked, if_neg hrefused, reservedError]
  · intro haccepted
    rw [hop, decode_of_masked haccepted]
    cases hread : rowReading w i with
    | command c => exact .inl ⟨c, rfl, (encode_of_rowReading haccepted hread).2⟩
    | error e =>
      refine .inr ⟨?_, e, rfl⟩
      simpa [hread] using rowReading_eq_command w i

/-- Settles O5, by the row that accepts the word. -/
theorem otherDecodeErrors : Obligations.OtherDecodeErrors := by
  intro w
  refine ⟨decode_of_unlisted, fun hbump => ?_, fun hpaste => ?_⟩
  · rw [decode_of_masked (i := .bump 0 0 0 0 0 false false false) hbump]
    simp only [rowReading, checkBump, unusedCZero_bump, unusedEZero_bump]
    refine ⟨fun hs hc => ?_, fun hc hf he => ?_, fun hc he => ?_⟩
    · rw [if_neg (not_or.mpr ⟨Bool.eq_false_iff.mp hs, hc⟩)]
      rfl
    · rw [if_pos hc, if_neg (not_or.mpr ⟨Bool.eq_false_iff.mp hf, he⟩)]
      rfl
    · rw [if_pos hc, if_pos he]
      exact ⟨_, rfl⟩
  · rw [decode_of_masked (i := .paste 0 0 0 default .add) hpaste, rowReading, checkBlend]
    have hsome := blendOfNumber_isSome (subField w)
    cases hblend : blendOfNumber (subField w) with
    | none =>
      rw [hblend] at hsome
      exact ⟨fun _ => rfl, fun hlt => by simp [hlt] at hsome⟩
    | some op =>
      rw [hblend] at hsome
      exact ⟨fun hge => absurd (of_decide_eq_true hsome.symm) (by omega), fun _ => ⟨_, rfl⟩⟩

/-- Settles O3, by evaluating the seven words. -/
theorem specExampleWords : Obligations.SpecExampleWords := by
  unfold Obligations.SpecExampleWords
  decide

end Sys2Proof

/-! The parallelogram of the whole texture (30_encoding.md R142 `fullpaste`, 42_generators.md R248, R249). -/

namespace Sys2Proof.Machine

/-- The quotient of two powers of two whose exponents differ by `r`. -/
theorem tdiv_two_pow {n s r : Nat} (h : n = r + s) : Int.tdiv (2 ^ n) (2 ^ s) = 2 ^ r := by
  rw [h, pow_add, Int.mul_tdiv_cancel _ (by positivity)]

/-- From 0 to 1.0 the box holds every pixel of the axis. -/
theorem inBox_unit {shift x : Nat} (hx : x < 2 ^ shift) : InBox shift 0 65536 x := by
  have hx' : (x : Int) < 2 ^ shift := by exact_mod_cast hx
  refine ⟨by simp, ?_⟩
  rw [← neg_mul, mul_comm]
  omega

/-- The coordinate of the centre of pixel `x` of an axis of `2 ^ shift` pixels, in 16.16. -/
def pixelCentre (shift x : Nat) : Int := (2 * x + 1) * 2 ^ (15 - shift)

/-- In 8.24 the centre lies half a pixel past the pixel's edge. -/
theorem pixelCentre_mul {shift : Nat} (hshift : shift ≤ 15) (x : Nat) :
    pixelCentre shift x * 2 ^ 8 = (2 * x + 1) * 2 ^ (23 - shift) := by
  rw [pixelCentre, show 23 - shift = 15 - shift + 8 by omega, pow_add, mul_assoc]

/-- The centre of a pixel of the axis lies in [0, 1). -/
theorem pixelCentre_bounds {shift x : Nat} (hshift : shift ≤ 15) (hx : x < 2 ^ shift) :
    0 ≤ pixelCentre shift x ∧ pixelCentre shift x < 65536 := by
  have hx' : (2 * x + 1 : Int) < 2 * 2 ^ shift := by
    have : (x : Int) + 1 ≤ 2 ^ shift := by exact_mod_cast hx
    omega
  refine ⟨by unfold pixelCentre; positivity, ?_⟩
  calc pixelCentre shift x < 2 * 2 ^ shift * 2 ^ (15 - shift) := mul_lt_mul_of_pos_right hx' (by positivity)
    _ = 2 * 2 ^ (shift + (15 - shift)) := by rw [pow_add, mul_assoc]
    _ = 65536 := by rw [show shift + (15 - shift) = 15 by omega]; norm_num

/-- The unit parallelogram's start on an axis is half a pixel. -/
theorem tdiv_start {shift : Nat} (hshift : shift ≤ 15) (other : Nat) :
    Int.tdiv (65536 * 65536 * 2 ^ other * 2 ^ 15) (65536 * 65536 * 2 ^ (shift + other)) = 2 ^ (15 - shift) := by
  have hquot := tdiv_two_pow (n := 47 + other) (s := 32 + (shift + other)) (r := 15 - shift) (by omega)
  rw [← hquot]
  congr 1 <;> ring

/-- The unit parallelogram's step on an axis is a pixel. -/
theorem tdiv_step {shift : Nat} (hshift : shift ≤ 15) :
    Int.tdiv (65536 * 2 ^ 32) (65536 * 65536 * 2 ^ shift) = 2 * 2 ^ (15 - shift) := by
  have hquot := tdiv_two_pow (n := 48) (s := 32 + shift) (r := 15 - shift + 1) (by omega)
  rw [← pow_succ', ← hquot]
  congr 1
  ring

/-- PARAM[0..5] of `fullpaste`: the unit parallelogram at the origin (30_encoding.md R142). -/
structure UnitParallelogram (k : Snapshot) : Prop where
  orgX : param k 0 = 0
  orgY : param k 1 = 0
  edgeUX : param k 2 = 65536
  edgeUY : param k 3 = 0
  edgeVX : param k 4 = 0
  edgeVY : param k 5 = 65536

theorem UnitParallelogram.determinant {k : Snapshot} (hk : UnitParallelogram k) : determinant k = 65536 * 65536 := by
  rw [Machine.determinant, hk.edgeUX, hk.edgeUY, hk.edgeVX, hk.edgeVY, mul_zero, sub_zero]

theorem UnitParallelogram.draws {k : Snapshot} (hk : UnitParallelogram k) (D : Tex) : Draws k D := by
  have hpos : (1 : Int) ≤ 2 ^ (D.sx + D.sy) := one_le_pow₀ (by decide)
  rw [Draws, hk.determinant, show magnitude (65536 * 65536) = 2 ^ 32 by decide]
  omega

theorem corner_zero (shift : Nat) : corner shift 0 = 0 := by simp [corner]

theorem cornerFrom_zero (shift : Nat) : cornerFrom shift 0 0 = 65536 := by simp [cornerFrom]

theorem UnitParallelogram.walkU {k : Snapshot} (hk : UnitParallelogram k) {D : Tex} (hsx : D.sx ≤ 15) (x y : Nat) :
    walkU k D 0 0 x y = pixelCentre D.sx x := by
  simp only [Machine.walkU, hk.determinant, hk.orgX, hk.orgY, hk.edgeVX, hk.edgeVY, corner_zero, cornerFrom_zero,
    mul_zero, zero_mul, neg_zero, sub_zero, add_zero, Int.zero_tdiv, tdiv_start hsx, tdiv_step hsx, pixelCentre]
  ring

theorem UnitParallelogram.walkV {k : Snapshot} (hk : UnitParallelogram k) {D : Tex} (hsy : D.sy ≤ 15) (x y : Nat) :
    walkV k D 0 0 x y = pixelCentre D.sy y := by
  simp only [Machine.walkV, hk.determinant, hk.orgX, hk.orgY, hk.edgeUX, hk.edgeUY, corner_zero, cornerFrom_zero,
    mul_zero, zero_mul, neg_zero, sub_zero, add_zero, Int.zero_tdiv, add_comm D.sx, tdiv_start hsy,
    tdiv_step hsy, pixelCentre]
  ring

/-- Settles O57, from the walk of the unit parallelogram. -/
theorem fullPasteCoversTheTexture : Obligations.FullPasteCoversTheTexture := by
  intro k D x y hsize ⟨hx, hy⟩ h0 h1 h2 h3 h4 h5
  have hk : UnitParallelogram k := ⟨h0, h1, h2, h3, h4, h5⟩
  obtain ⟨hsx, hsy⟩ : D.sx ≤ 12 ∧ D.sy ≤ 12 := of_decide_eq_true hsize
  have hlow : pasteLow 0 65536 0 = 0 ∧ pasteLow 0 0 65536 = 0 := by decide
  have hhigh : pasteHigh 0 65536 0 = 65536 ∧ pasteHigh 0 0 65536 = 65536 := by decide
  simp only [h0, h1, h2, h3, h4, h5, hlow, hhigh, hk.walkU (hsx.trans (by decide)), hk.walkV (hsy.trans (by decide))]
  exact ⟨inBox_unit hx, inBox_unit hy, hk.draws D, pixelCentre_mul (by omega) x, pixelCentre_mul (by omega) y,
    (pixelCentre_bounds (by omega) hx).1, (pixelCentre_bounds (by omega) hx).2,
    (pixelCentre_bounds (by omega) hy).1, (pixelCentre_bounds (by omega) hy).2⟩

end Sys2Proof.Machine

/-! The commands that return a pixel (40_pixel.md): the arithmetic of a channel, the pixel each command
completes with, and the pre-flight errors that PARAM values raise (60_exceptions.md R404 (4)). -/

namespace Sys2Proof.Machine

/-! ## Channel values (40_pixel.md R160 to R166) -/

theorem channel_le (c : U16) : c.toNat ≤ 65535 := by have := c.isLt; omega

theorem mul_channels_le (a b : U16) : a.toNat * b.toNat ≤ 65535 * 65535 :=
  Nat.mul_le_mul (channel_le a) (channel_le b)

/-- The fold form of `MulIntens` does not leave the 16 bits of a channel (R161). -/
theorem mulIntens_fold (a b : U16) :
    (mulIntens a b).toNat =
      (a.toNat * b.toNat + 0x8000 + (a.toNat * b.toNat + 0x8000) / 2 ^ 16) / 2 ^ 16 := by
  have hmul := mul_channels_le a b
  simp only [mulIntens, BitVec.toNat_ofNat, Nat.shiftRight_eq_div_pow]
  omega

/-- The fold form rounds half up: on products of channel values, adding the high half to a number and taking
the high half of that divides it by 65535 (R161). -/
theorem mulIntens_toNat (a b : U16) : (mulIntens a b).toNat = roundMul a.toNat b.toNat := by
  have hmul := mul_channels_le a b
  rw [mulIntens_fold, roundMul]
  omega

theorem mulIntens_comm (a b : U16) : mulIntens a b = mulIntens b a := by
  simp only [mulIntens, Nat.mul_comm]

theorem mulIntens_one (b : U16) : mulIntens 65535 b = b := by
  apply BitVec.eq_of_toNat_eq
  rw [mulIntens_toNat, roundMul, show (65535 : U16).toNat = 65535 from rfl]
  omega

theorem mulIntens_zero (b : U16) : mulIntens 0 b = 0 := by
  apply BitVec.eq_of_toNat_eq
  rw [mulIntens_toNat, roundMul, show (0 : U16).toNat = 0 from rfl, Nat.zero_mul]

/-- Saturation stops a sum of channel values at 65535 (R160). -/
theorem sat_add_toNat (a b : U16) : (sat (ci a + ci b)).toNat = min (a.toNat + b.toNat) 65535 := by
  simp only [sat, clamp, ci, BitVec.toNat_ofInt]
  omega

theorem chan_toNat {v : Int} (h0 : 0 ≤ v) (h1 : v ≤ 65535) : ((chan v).toNat : Int) = v := by
  simp only [chan, BitVec.toNat_ofInt]
  omega

theorem inv_toNat (c : U16) : (inv c).toNat = 65535 - c.toNat := by
  have hc := channel_le c
  have hinv : ((inv c).toNat : Int) = 65535 - ci c :=
    chan_toNat (by simp only [ci]; omega) (by simp only [ci]; omega)
  rw [ci] at hinv
  omega

theorem expand8_toNat (v : BitVec 8) : (expand8 v).toNat = 257 * v.toNat := by
  have hv := v.isLt
  rw [expand8, BitVec.toNat_ofNat]
  omega

/-- The floor of a weighted step lies between its ends: at most the whole step, at least none (R162). -/
theorem lerp_between {t a b : Int} (h0 : 0 ≤ t) (h1 : t ≤ 65536) : min a b ≤ lerp t a b ∧ lerp t a b ≤ max a b := by
  rw [lerp, Int.shiftRight_eq_div_pow]
  rcases le_total a b with hab | hab
  · have hlow : 0 ≤ t * (b - a) := mul_nonneg h0 (by omega)
    have hhigh : t * (b - a) ≤ 65536 * (b - a) := mul_le_mul_of_nonneg_right h1 (by omega)
    omega
  · have hlow : 65536 * (b - a) ≤ t * (b - a) := mul_le_mul_of_nonpos_right h1 (by omega)
    have hhigh : t * (b - a) ≤ 0 := mul_nonpos_of_nonneg_of_nonpos h0 (by omega)
    omega

theorem lerp_start (a b : Int) : lerp 0 a b = a := by simp [lerp]

theorem lerp_end (a b : Int) : lerp 65536 a b = b := by
  rw [lerp, Int.shiftRight_eq_div_pow]
  omega

/-- `Lerp` of two channel values is a channel value (R162). -/
theorem chan_lerp_toNat {t : Int} (h0 : 0 ≤ t) (h1 : t ≤ 65536) (a b : U16) :
    ((chan (lerp t (ci a) (ci b))).toNat : Int) = lerp t (ci a) (ci b) := by
  obtain ⟨hlow, hhigh⟩ := lerp_between (a := ci a) (b := ci b) h0 h1
  have ha := channel_le a
  have hb := channel_le b
  simp only [ci] at *
  exact chan_toNat (by omega) (by omega)

/-! ## Pixels -/

theorem channel_zipPixel (f : U16 → U16 → U16) (p q : Pixel) :
    ∀ ch ∈ channels, ch (zipPixel f p q) = f (ch p) (ch q) := by
  simp [channels, zipPixel]

/-- `PixInit8` premultiplies: each colour by alpha (R166). -/
theorem pixInit8_toNat (r g b a : BitVec 8) :
    (pixInit8 r g b a).r.toNat = roundMul (257 * r.toNat) (257 * a.toNat) ∧
    (pixInit8 r g b a).g.toNat = roundMul (257 * g.toNat) (257 * a.toNat) ∧
    (pixInit8 r g b a).b.toNat = roundMul (257 * b.toNat) (257 * a.toNat) ∧
    (pixInit8 r g b a).a.toNat = 257 * a.toNat := by
  simp only [pixInit8, mulIntens_toNat, expand8_toNat, and_self]

/-- Alpha 0 leaves no color (R167). -/
theorem pixInit8_transparent (r g b : BitVec 8) : pixInit8 r g b 0 = ⟨0, 0, 0, 0⟩ := by
  have hcolor (c : BitVec 8) : mulIntens (expand8 c) (expand8 0) = 0 :=
    (mulIntens_comm _ _).trans (mulIntens_zero _)
  rw [pixInit8, hcolor, hcolor, hcolor]
  rfl

/-- Division by alpha undoes the premultiplication: the rounding error of half a unit, times 255 and over an
alpha of at least 257, is less than half an 8-bit unit (R167). -/
theorem unpremultiply_roundMul (c : Nat) {a : Nat} (ha : 0 < a) :
    (2 * (roundMul (257 * c) (257 * a) * 255) + 257 * a) / (2 * (257 * a)) = c := by
  have hprod : 257 * c * (257 * a) = 66049 * (c * a) := by ring
  rw [roundMul, hprod, Nat.div_eq_iff (by omega)]
  have hcentre : c * (2 * (257 * a)) = 514 * (c * a) := by ring
  constructor <;> omega

/-! ## The pixel a command completes with -/

/-- A command of pixel arithmetic completes with its pixel (40_pixel.md part 2). -/
theorem runPixel_completes (s : State) (p : Pixel) : ∃ t, runPixel s p = .next t ∧ CompletedPixel s t p :=
  ⟨_, rfl, rfl, rfl, resPixel_setRes s p⟩

/-- A command that works channel by channel completes with `g` of the two channels in each. -/
theorem zipPixel_completes {i : Instr} {s : State} {f : U16 → U16 → U16} {g : Nat → Nat → Nat} {p q : Pixel}
    (hi : exec i s = runPixel s (zipPixel f p q)) (hfg : ∀ x y, (f x y).toNat = g x.toNat y.toNat) :
    ∃ t, exec i s = .next t ∧ EndedNormally s t ∧ OnlyResult s t ∧ ∀ ch ∈ channels,
      (ch (resPixel t)).toNat = g (ch p).toNat (ch q).toNat := by
  obtain ⟨t, ht, hend, honly, hres⟩ := runPixel_completes s (zipPixel f p q)
  refine ⟨t, hi.trans ht, hend, honly, fun ch hch => ?_⟩
  rw [hres, channel_zipPixel f p q ch hch, hfg]

/-- A command that premultiplies four bytes completes with their `PixInit8` (40_pixel.md R166). -/
theorem pixInit8_completes {i : Instr} {s : State} {r g b a : BitVec 8}
    (hi : exec i s = runPixel s (pixInit8 r g b a)) :
    ∃ t, exec i s = .next t ∧ EndedNormally s t ∧ OnlyResult s t ∧
      (resPixel t).r.toNat = roundMul (257 * r.toNat) (257 * a.toNat) ∧
      (resPixel t).g.toNat = roundMul (257 * g.toNat) (257 * a.toNat) ∧
      (resPixel t).b.toNat = roundMul (257 * b.toNat) (257 * a.toNat) ∧
      (resPixel t).a.toNat = 257 * a.toNat := by
  obtain ⟨t, ht, hend, honly, hres⟩ := runPixel_completes s (pixInit8 r g b a)
  exact ⟨t, hi.trans ht, hend, honly, hres ▸ pixInit8_toNat r g b a⟩

/-- A byte of PARAM[k] as a number. -/
theorem paramByte_toNat (k : Snapshot) (i n : Nat) :
    ((paramWord k i).extractLsb' n 8).toNat = paramU k i / 2 ^ n % 2 ^ 8 := by
  rw [BitVec.extractLsb'_toNat, Nat.shiftRight_eq_div_pow, paramU]

theorem paramU_topByte (k : Snapshot) (i : Nat) : paramU k i / 2 ^ 24 % 2 ^ 8 = paramU k i / 2 ^ 24 := by
  have hlt : paramU k i < 2 ^ 32 := (paramWord k i).isLt
  omega

/-! ## Errors of PARAM values (60_exceptions.md R404 (4)) -/

/-- The first check of a list decides, or leaves the decision to the rest. -/
theorem firstError_failIf (b : Bool) (e : CmdError) (cs : List Check) :
    firstError (failIf b e :: cs) = if b then some e else firstError cs := by
  cases b <;> rfl

/-- A command ends with the first register check that fails, and has no other effect. -/
theorem failsWith_of_registerChecks {i : Instr} {s : State} {e : CmdError}
    (h : firstError (registerChecks i s.snap) = some e) : FailsWith i s e := by
  have hexec : exec i s = .next (raiseError s e) := by
    cases i with
    | nop | pixInit8 | pixInit32 | pixAdd | pixMulc | pixOver | pixScreen => cases h
    | _ => exact afterChecks_fail h
  exact ⟨_, hexec, raiseError_endedWithError s e, raiseError_onlyError s e⟩

/-- Once the slots and their sizes pass, the first PARAM check that fails gives the error. -/
theorem failsWith_of_paramChecks {i : Instr} {s : State} {e : CmdError} (hslots : ∀ n ∈ usedSlots i, SlotOk s.snap n)
    (hsize : firstError (sizeChecks i s.snap) = none) (h : firstError (paramChecks i s.snap) = some e) :
    FailsWith i s e := by
  apply failsWith_of_registerChecks
  rw [registerChecks, firstError_append, firstError_append, slotChecks_none.2 hslots, hsize, h]
  rfl

theorem sizeChecks_single {i : Instr} {k : Snapshot} {d a : Slot} (hd : destSlot i = some d) (ha : compatSlots i = [a])
    (h : SameSize k d a) : firstError (sizeChecks i k) = none := by
  rw [sizeChecks, hd, ha]
  exact matchChecks_none.2 (by simpa using h)

theorem coefOk_false {v : Int} : coefOk v = false ↔ v < -127 * 65536 ∨ 127 * 65536 < v := by
  rw [coefOk, decide_eq_false_iff_not]
  omega

theorem coefOk_true {v : Int} : coefOk v = true ↔ -127 * 65536 ≤ v ∧ v ≤ 127 * 65536 := decide_eq_true_iff

/-- The coefficient checks name the first entry that is out of range (43_filters.md R279). -/
theorem coefChecks_first {k : Snapshot} {j : Nat} (hj : coefOk (param k j) = false) (n i : Nat) (hi : i ≤ j)
    (hn : j < i + n) (hbefore : ∀ l, i ≤ l → l < j → coefOk (param k l) = true) :
    firstError (coefChecks k i n) = some (errAt .coef j) := by
  induction n generalizing i with
  | zero => omega
  | succ n ih =>
    rw [coefChecks, firstError_failIf]
    rcases hi.eq_or_lt with rfl | hlt
    · simp [hj]
    · simpa [hbefore i le_rfl hlt] using ih (i + 1) hlt (by omega) fun l hl => hbefore l (by omega)

theorem pixLerp_paramError {s : State} (h : param s.snap 0 < 0 ∨ 65536 < param s.snap 0) :
    FailsWith .pixLerp s ⟨.param, 0⟩ :=
  failsWith_of_paramChecks (by simp [usedSlots]) rfl
    ((firstError_failIf _ _ _).trans (if_pos (decide_eq_true h)))

theorem blur_paramError {s : State} {d a : Slot} {wm : Wrap} (hslots : ∀ n ∈ [d, a], SlotOk s.snap n)
    (hsame : SameSize s.snap d a) (h : 255 < param s.snap 2) : FailsWith (.blur d a wm) s ⟨.param, 2⟩ :=
  failsWith_of_paramChecks hslots (sizeChecks_single rfl rfl hsame)
    ((firstError_failIf _ _ _).trans (if_pos (decide_eq_true h)))

/-- NOISE's four checks in their order (42_generators.md R238). -/
theorem firstError_noiseChecks (k : Snapshot) :
    firstError (noiseChecks k) =
      if param k 0 < 0 ∨ 12 < param k 0 then some ⟨.param, 0⟩
      else if param k 1 < 0 ∨ 12 < param k 1 then some ⟨.param, 1⟩
      else if param k 2 < 1 ∨ 16 < param k 2 then some ⟨.param, 2⟩
      else if param k 3 ≤ 0 then some ⟨.param, 3⟩ else none := by
  simp only [noiseChecks, firstError_failIf, decide_eq_true_eq]
  rfl

theorem noise_paramError {s : State} {d a : Slot} {x y z : Bool} {e : CmdError}
    (hslots : ∀ n ∈ [d, a], SlotOk s.snap n) (h : firstError (noiseChecks s.snap) = some e) :
    FailsWith (.noise d a x y z) s e := failsWith_of_paramChecks hslots rfl h

/-! ## The statements -/

/-- Settles O20, by the first PARAM check that fails. -/
theorem paramErrorsNameTheFirst : Obligations.ParamErrorsNameTheFirst := by
  intro s
  refine ⟨pixLerp_paramError, ?noise, fun d a wm => blur_paramError, ?coef⟩
  case noise =>
    intro d a x y z hslots
    have hfails (e : CmdError) := noise_paramError (x := x) (y := y) (z := z) (e := e) hslots
    simp only [firstError_noiseChecks] at hfails
    refine ⟨fun h0 => hfails _ (if_pos h0), fun l0 u0 => ?_⟩
    rw [if_neg (by omega)] at hfails
    refine ⟨fun h1 => hfails _ (if_pos h1), fun l1 u1 => ?_⟩
    rw [if_neg (by omega)] at hfails
    refine ⟨fun h2 => hfails _ (if_pos h2), fun l2 u2 h3 => ?_⟩
    rw [if_neg (by omega)] at hfails
    exact hfails _ (if_pos h3)
  case coef =>
    intro j hlow hhigh hbefore hbad
    have hfirst : firstError (coefChecks s.snap 16 16) = some ⟨.coef, BitVec.ofNat 32 j⟩ :=
      coefChecks_first (coefOk_false.2 hbad) 16 16 hlow hhigh fun l hl hlj => coefOk_true.2 (hbefore l hl hlj)
    exact ⟨fun d a p hslots hsame => failsWith_of_paramChecks hslots (sizeChecks_single rfl rfl hsame) hfirst,
      fun d a m hslots => failsWith_of_paramChecks hslots rfl hfirst⟩

/-- Settles O29, by the fold form's value. -/
theorem mulIntensRoundsHalfUp : Obligations.MulIntensRoundsHalfUp :=
  ⟨fun a b => ⟨mulIntens_toNat a b, mulIntens_fold a b, mulIntens_one b, mulIntens_zero b, mulIntens_comm a b⟩,
    channel_zipPixel mulIntens⟩

/-- Settles O31: `PixInit8` of the bytes of PARAM[0], in the order of each command. -/
theorem pixInitPremultiplies : Obligations.PixInitPremultiplies := by
  intro s
  have hbytes := paramByte_toNat s.snap 0
  have htop := paramU_topByte s.snap 0
  constructor
  case left =>
    have h := pixInit8_completes (i := .pixInit8) (s := s) rfl
    simpa only [hbytes, htop, pow_zero, Nat.div_one] using h
  case right =>
    have h := pixInit8_completes (i := .pixInit32) (s := s) rfl
    simpa only [hbytes, htop, pow_zero, Nat.div_one] using h

/-- Settles O32, by the division that undoes the premultiplication of a channel. -/
theorem unpremultiplyGivesTheInput : Obligations.UnpremultiplyGivesTheInput := by
  intro r g b a
  obtain ⟨hr, hg, hb, ha⟩ := pixInit8_toNat r g b a
  constructor
  case left =>
    intro hne
    have hpos : 0 < a.toNat := Nat.pos_of_ne_zero fun h => hne (BitVec.eq_of_toNat_eq h)
    simp [hr, hg, hb, ha, unpremultiply_roundMul _ hpos]
  case right =>
    rintro rfl
    rw [pixInit8_transparent]
    simp [channels]

/-- Settles O33: the weight passes its check, and each channel's `Lerp` stays a channel value. -/
theorem pixLerpInterpolates : Obligations.PixLerpInterpolates := by
  intro s h0 h1
  have hpass : firstError (registerChecks .pixLerp s.snap) = none :=
    (firstError_failIf _ _ _).trans (if_neg (by rw [decide_eq_true_eq]; omega))
  obtain ⟨t, ht, hend, honly, hres⟩ :=
    runPixel_completes s (pixLerp (param s.snap 0) (pixPair s.snap 1) (pixPair s.snap 3))
  refine ⟨t, (afterChecks_pass hpass).trans ht, hend, honly, fun ch hch => ?_⟩
  dsimp only
  rw [hres, pixLerp, channel_zipPixel _ _ _ ch hch, chan_lerp_toNat h0 h1]
  obtain ⟨hlow, hhigh⟩ := lerp_between (a := ci (ch (pixPair s.snap 1))) (b := ci (ch (pixPair s.snap 3))) h0 h1
  refine ⟨?_, hlow, hhigh, fun h => ?_, fun h => ?_⟩
  · rw [lerp, Int.shiftRight_eq_div_pow]; rfl
  · rw [h, lerp_start]; rfl
  · rw [h, lerp_end]; rfl

/-- Settles O34, by each command's formula for one channel. -/
theorem pixPairCommandsCompose : Obligations.PixPairCommandsCompose := by
  intro s d q
  refine ⟨?add, ?mulc, ?pixOver, ?screen⟩
  case add => exact zipPixel_completes (g := fun x y => min (x + y) 65535) rfl sat_add_toNat
  case mulc => exact zipPixel_completes rfl mulIntens_toNat
  case pixOver =>
    exact zipPixel_completes (g := fun x y => min (roundMul (65535 - q.a.toNat) x + y) 65535) rfl
      fun x y => by rw [sat_add_toNat, mulIntens_toNat, inv_toNat]
  case screen =>
    exact zipPixel_completes (g := fun x y => min (x + roundMul y (65535 - x)) 65535) rfl
      fun x y => by rw [sat_add_toNat, mulIntens_toNat, inv_toNat]

end Sys2Proof.Machine

/-! Pre-flight of slots and sizes: the first used slot that fails a check, the first slot of another size than
the destination, and the legal commands that pass (41_sampler.md R191, R192; 60_exceptions.md R404 (2), (3)). -/

namespace Sys2Proof.Machine

/-! ## The slot checks -/

theorem slotChecks_append (k : Snapshot) (ns ms : List Slot) :
    slotChecks k (ns ++ ms) = slotChecks k ns ++ slotChecks k ms := by
  induction ns with
  | nil => rfl
  | cons n ns ih => simp only [List.cons_append, slotChecks, ih, List.append_assoc]

/-- Slots that pass leave the error to the first that fails (60_exceptions.md R404 (2)). -/
theorem slotChecks_first {k : Snapshot} {before after : List Slot} {n : Slot} {e : CmdError}
    (hbefore : ∀ m ∈ before, SlotOk k m) (hn : firstError (slotCheck k n) = some e) :
    firstError (slotChecks k (before ++ n :: after)) = some e := by
  rw [slotChecks_append, slotChecks, firstError_append, firstError_append, slotChecks_none.2 hbefore, hn]
  rfl

/-- A slot of an illegal size gives E_TEXSIZE, whatever its extent (41_sampler.md R191). -/
theorem slotCheck_texsize {k : Snapshot} {n : Slot} (h : 12 < (slotTex k n).sx ∨ 12 < (slotTex k n).sy) :
    firstError (slotCheck k n) = some (errAt .texsize n.toNat) := by
  have hsize : (slotTex k n).sizeOk = false := decide_eq_false (by simp only [Config.texMaxLog2]; omega)
  rw [slotCheck, firstError_failIf, hsize]
  rfl

/-- A slot of a legal size whose extent leaves the memory space gives E_TEXADDR (20_memory.md R96). -/
theorem slotCheck_texaddr {k : Snapshot} {n : Slot} (hsx : (slotTex k n).sx ≤ 12) (hsy : (slotTex k n).sy ≤ 12)
    (h : 2 ^ 32 < (slotTex k n).base + 8 * (slotTex k n).n) :
    firstError (slotCheck k n) = some (errAt .texaddr n.toNat) := by
  have hsize : (slotTex k n).sizeOk = true := decide_eq_true ⟨hsx, hsy⟩
  have hfits : (slotTex k n).fits = false := decide_eq_false (by omega)
  rw [slotCheck, firstError_failIf, firstError_failIf, hsize, hfits]
  rfl

/-- A command ends with the error of the first used slot that fails. -/
theorem failsWith_of_slotCheck {i : Instr} {s : State} {before after : List Slot} {n : Slot} {e : CmdError}
    (hused : usedSlots i = before ++ n :: after) (hbefore : ∀ m ∈ before, SlotOk s.snap m)
    (hn : firstError (slotCheck s.snap n) = some e) : FailsWith i s e := by
  apply failsWith_of_registerChecks
  rw [registerChecks, firstError_append, firstError_append, hused, slotChecks_first hbefore hn]
  rfl

/-! ## The size checks -/

theorem matchChecks_append (k : Snapshot) (d : Slot) (ns ms : List Slot) :
    matchChecks k d (ns ++ ms) = matchChecks k d ns ++ matchChecks k d ms := by
  induction ns with
  | nil => rfl
  | cons n ns ih => simp only [List.cons_append, matchChecks, ih]

theorem compatible_iff {t u : Tex} : t.compatible u = true ↔ t.sx = u.sx ∧ t.sy = u.sy := by
  rw [Tex.compatible, Bool.and_eq_true, beq_iff_eq, beq_iff_eq]

theorem compatible_false {t u : Tex} (h : u.sx ≠ t.sx ∨ u.sy ≠ t.sy) : t.compatible u = false := by
  rw [← Bool.not_eq_true, compatible_iff]
  omega

/-- Compatible slots leave E_MISMATCH to the first that is not (60_exceptions.md R404 (3)). -/
theorem matchChecks_first {k : Snapshot} {d n : Slot} {before after : List Slot}
    (hbefore : ∀ m ∈ before, SameSize k d m) (hn : (slotTex k d).compatible (slotTex k n) = false) :
    firstError (matchChecks k d (before ++ n :: after)) = some (errAt .mismatch n.toNat) := by
  rw [matchChecks_append, matchChecks, firstError_append, firstError_failIf, matchChecks_none.2 hbefore, hn]
  rfl

/-- Once the slots pass, the first size check that fails gives the error. -/
theorem failsWith_of_sizeChecks {i : Instr} {s : State} {e : CmdError} (hslots : ∀ n ∈ usedSlots i, SlotOk s.snap n)
    (h : firstError (sizeChecks i s.snap) = some e) : FailsWith i s e := by
  apply failsWith_of_registerChecks
  rw [registerChecks, firstError_append, firstError_append, slotChecks_none.2 hslots, h]
  rfl

/-! ## Legal commands -/

theorem Ready.slotOk {i : Instr} {s : State} {n : Slot} (h : Ready i s) (hn : n ∈ usedSlots i) : SlotOk s.snap n := by
  obtain ⟨hslots, -, -⟩ := h
  exact hslots n hn

theorem Ready.sameSize {i : Instr} {s : State} {d n : Slot} (h : Ready i s) (hd : destSlot i = some d)
    (hn : n ∈ compatSlots i) : SameSize s.snap d n := by
  obtain ⟨-, hsame, -⟩ := h
  exact hsame d hd n hn

theorem Ready.quiet {i : Instr} {s : State} (h : Ready i s) : Quiet s (footprint s.snap s.mem i) := by
  obtain ⟨-, -, hquiet⟩ := h
  exact hquiet

/-- The register checks of a legal command without a failing PARAM check pass. -/
theorem registerChecks_of_ready {i : Instr} {s : State} (h : Ready i s)
    (hparam : firstError (paramChecks i s.snap) = none) : firstError (registerChecks i s.snap) = none := by
  refine registerChecks_none.2 ⟨fun n => h.slotOk, ?_, hparam⟩
  rw [sizeChecks]
  cases hd : destSlot i with
  | none => rfl
  | some d => exact matchChecks_none.2 fun n => h.sameSize hd

/-- A legal sampling command completes with its pixel. -/
theorem runSample_completes {i : Instr} {s : State} {p : Memory → Pixel} (h : Ready i s)
    (hparam : firstError (paramChecks i s.snap) = none)
    (hi : exec i s = afterChecks s (registerChecks i s.snap) (runSample s (footprint s.snap s.mem i) p)) :
    ∃ t, exec i s = .next t ∧ CompletedPixel s t (p s.mem) := by
  rw [hi, afterChecks_pass (registerChecks_of_ready h hparam), runSample_quiet h.quiet]
  exact ⟨_, rfl, rfl, rfl, resPixel_setRes s _⟩

/-- A legal command that writes a texture completes with its body done to memory. -/
theorem runTexture_completes {i : Instr} {s : State} {d : Tex} {body : Memory → Memory} (h : Ready i s)
    (hparam : firstError (paramChecks i s.snap) = none)
    (hi : exec i s = afterChecks s (registerChecks i s.snap) (runTexture s d (footprint s.snap s.mem i) body)) :
    exec i s = .next (finish { s with mem := body s.mem }) := by
  rw [hi, afterChecks_pass (registerChecks_of_ready h hparam), runTexture_quiet h.quiet]

/-! ## The statements -/

/-- Settles O18, by the check of the first used slot that fails one. -/
theorem slotErrorsInFieldOrder : Obligations.SlotErrorsInFieldOrder :=
  fun _ _ _ _ _ hused hbefore =>
    ⟨fun hsize => failsWith_of_slotCheck hused hbefore (slotCheck_texsize hsize),
     fun hsx hsy haddr => failsWith_of_slotCheck hused hbefore (slotCheck_texaddr hsx hsy haddr)⟩

/-- Settles O19, by the size check of the first slot that is not compatible. -/
theorem mismatchNamesTheFirstSlot : Obligations.MismatchNamesTheFirstSlot := by
  intro i s d before n after hdest hslots hcompat hbefore hdiffers
  apply failsWith_of_sizeChecks hslots
  rw [sizeChecks, hdest, hcompat]
  exact matchChecks_first hbefore (compatible_false hdiffers)

end Sys2Proof.Machine

/-! The sampling functions and the commands that sample (41_sampler.md R193 to R203, R205): a coordinate's
texel and weight, texel centres, shifts by the width of the texture, and the pixel each command completes with. -/

namespace Sys2Proof.Machine

/-! ## Mixing -/

@[simp] theorem chan_ci (c : U16) : chan (ci c) = c := by simp [chan, ci]

theorem lerp_self (t a : Int) : lerp t a a = a := by simp [lerp]

/-- Weight 0 gives the first pixel (40_pixel.md R162). -/
@[simp] theorem pixLerp_zero (p q : Pixel) : pixLerp 0 p q = p := by simp [pixLerp, zipPixel, lerp_start]

/-- A pixel mixed with itself is that pixel, whatever the weight. -/
@[simp] theorem pixLerp_self (t : Int) (p : Pixel) : pixLerp t p p = p := by simp [pixLerp, zipPixel, lerp_self]

/-! ## Weights and neighbours as the rules' prose gives them -/

/-- The 16 bits below the texel index (41_sampler.md R195, R197). -/
theorem weightOf_natCast (c sx : Nat) : weightOf c sx = fraction c sx := by
  have hnat : ((c * 2 ^ sx % 2 ^ 24 / 2 ^ 8 : Nat) : Int) = weightOf c sx := by rw [weightOf]; push_cast; rfl
  rw [← hnat, fraction, Nat.shiftLeft_eq, Nat.pow_add, ← Nat.mul_assoc, Nat.shiftRight_eq_div_pow]
  omega

/-- The coordinate less the half-texel bias (41_sampler.md R195). -/
theorem biased_eq_onAxis (c : Int) (shift : Nat) (k : Bool) :
    (biased c (2 ^ (23 - shift)) k : Int) = (onAxis c shift k - 2 ^ (23 - shift)) % 2 ^ 24 := by
  have hmod (v : Int) : ((v % 2 ^ 24).toNat : Int) = v % 2 ^ 24 := by omega
  rw [biased, hmod, axisAddr_eq_onAxis]
  push_cast
  rfl

section
variable {t : Tex} (x y : Int) (wm : Wrap)

theorem lowerX_eq (hsx : t.sx ≤ 24) : lowerX t x wm = (texelOf (biased x t.minx wm.clampU) t.sx + 0) % t.w := by
  rw [Nat.add_zero, texelOf_natCast _ hsx]
  exact (Nat.mod_eq_of_lt (shiftRight_lt_size (biased_lt _ _ _) hsx)).symm

theorem lowerY_eq (hsy : t.sy ≤ 24) : lowerY t y wm = (texelOf (biased y t.miny wm.clampV) t.sy + 0) % t.h := by
  rw [Nat.add_zero, texelOf_natCast _ hsy]
  exact (Nat.mod_eq_of_lt (shiftRight_lt_size (biased_lt _ _ _) hsy)).symm

theorem upperX_eq (hsx : t.sx ≤ 24) : upperX t x wm = (texelOf (biased x t.minx wm.clampU) t.sx + 1) % t.w := by
  rw [texelOf_natCast _ hsx]
  rfl

theorem upperY_eq (hsy : t.sy ≤ 24) : upperY t y wm = (texelOf (biased y t.miny wm.clampV) t.sy + 1) % t.h := by
  rw [texelOf_natCast _ hsy]
  rfl

end

/-- Bilinear sampling at the biased coordinates `X` and `Y` (41_sampler.md R195). -/
theorem sampleBilinear_eq {t : Tex} (ht : t.sizeOk = true) (m : Memory) {x y X Y : Int} {wm : Wrap}
    (hX : (biased x t.minx wm.clampU : Int) = X) (hY : (biased y t.miny wm.clampV : Int) = Y) :
    sampleBilinear m t x y wm =
      let T := fun i j => texRead m t ((texelOf X t.sx + i) % t.w) ((texelOf Y t.sy + j) % t.h)
      pixLerp (weightOf Y t.sy) (pixLerp (weightOf X t.sx) (T 0 0) (T 1 0))
        (pixLerp (weightOf X t.sx) (T 0 1) (T 1 1)) := by
  subst hX hY
  obtain ⟨hsx, hsy⟩ := sizeOk_le ht
  simp only [sampleBilinear, lowerX_eq x wm hsx, upperX_eq x wm hsx, lowerY_eq y wm hsy, upperY_eq y wm hsy,
    weightOf_natCast]

/-! ## Texel centres (41_sampler.md R205 (a), (b)) -/

section
variable {shift i : Nat} (hshift : shift ≤ 12) (hi : i < 2 ^ shift)
include hshift hi

/-- Neither wrapping nor clamping moves a texel's centre: it lies half a texel or more inside the axis. -/
theorem axisAddr_centre (k : Bool) :
    axisAddr ((2 * i + 1) * 2 ^ (23 - shift) : Nat) (2 ^ (23 - shift)) k = (2 * i + 1) * 2 ^ (23 - shift) := by
  have hwidth : 2 ^ shift * 2 ^ (23 - shift) = 2 ^ 23 := by rw [← Nat.pow_add]; congr 1; omega
  have hlow : 1 * 2 ^ (23 - shift) ≤ (2 * i + 1) * 2 ^ (23 - shift) := Nat.mul_le_mul_right _ (by omega)
  have hhigh : (2 * i + 1 + 1) * 2 ^ (23 - shift) ≤ 2 * 2 ^ shift * 2 ^ (23 - shift) :=
    Nat.mul_le_mul_right _ (by omega)
  rw [Nat.mul_assoc, hwidth, Nat.add_mul (2 * i + 1)] at hhigh
  have hpos : 0 < 2 ^ (23 - shift) := Nat.two_pow_pos _
  generalize (2 * i + 1) * 2 ^ (23 - shift) = c at *
  generalize 2 ^ (23 - shift) = half at *
  simp only [axisAddr, clamp]
  split <;> omega

/-- A texel's centre lies in the texel. -/
theorem centre_nearest (k : Bool) :
    axisAddr ((2 * i + 1) * 2 ^ (23 - shift) : Nat) (2 ^ (23 - shift)) k >>> (24 - shift) = i := by
  rw [axisAddr_centre hshift hi, show 24 - shift = 23 - shift + 1 by omega, Nat.shiftRight_eq_div_pow, Nat.pow_succ',
    Nat.mul_div_mul_right _ _ (Nat.two_pow_pos _)]
  omega

/-- The bias takes a texel's centre to the texel's lower edge. -/
theorem biased_centre (k : Bool) :
    biased ((2 * i + 1) * 2 ^ (23 - shift) : Nat) (2 ^ (23 - shift)) k = i * 2 ^ (24 - shift) := by
  have hlt := axisAddr_lt ((2 * i + 1) * 2 ^ (23 - shift) : Nat) (2 ^ (23 - shift)) k
  have hedge : (2 * i + 1) * 2 ^ (23 - shift) = i * 2 ^ (24 - shift) + 2 ^ (23 - shift) := by
    rw [show 24 - shift = 23 - shift + 1 by omega, Nat.pow_succ]; ring
  rw [axisAddr_centre hshift hi, hedge] at hlt
  rw [biased, axisAddr_centre hshift hi, hedge]
  generalize i * 2 ^ (24 - shift) = edge at *
  generalize 2 ^ (23 - shift) = half at *
  omega

theorem centre_lower (k : Bool) :
    biased ((2 * i + 1) * 2 ^ (23 - shift) : Nat) (2 ^ (23 - shift)) k >>> (24 - shift) = i := by
  rw [biased_centre hshift hi, Nat.shiftRight_eq_div_pow, Nat.mul_div_cancel _ (Nat.two_pow_pos _)]

/-- A texel's centre has no weight (41_sampler.md R205 (b)). -/
theorem centre_fraction (k : Bool) :
    fraction (biased ((2 * i + 1) * 2 ^ (23 - shift) : Nat) (2 ^ (23 - shift)) k) shift = 0 := by
  rw [biased_centre hshift hi, fraction, Nat.shiftLeft_eq, Nat.mul_assoc, ← Nat.pow_add,
    show 24 - shift + (shift + 8) = 32 by omega, Nat.mul_mod_left, Nat.zero_shiftRight]

end

/-- Bilinear sampling at a corner between texels, no weight on either axis, is the lower texel. -/
theorem sampleBilinear_of_fraction_zero (m : Memory) {t : Tex} {x y : Int} {wm : Wrap}
    (hx : fraction (biased x t.minx wm.clampU) t.sx = 0) (hy : fraction (biased y t.miny wm.clampV) t.sy = 0) :
    sampleBilinear m t x y wm = texRead m t (lowerX t x wm) (lowerY t y wm) := by
  simp [sampleBilinear, hx, hy]

/-- At a texel's centre both filters give the texel, bilinear sampling with weights 0 (41_sampler.md R205 (a),
(b)). -/
theorem sample_centre (m : Memory) {t : Tex} (wm : Wrap) {i j : Nat} (ht : t.sizeOk = true) (hij : InTex t i j) :
    let x : Int := ((2 * i + 1) * t.minx : Nat)
    let y : Int := ((2 * j + 1) * t.miny : Nat)
    sampleNearest m t x y wm = texRead m t i j ∧
    fraction (biased x t.minx wm.clampU) t.sx = 0 ∧ fraction (biased y t.miny wm.clampV) t.sy = 0 ∧
    sampleBilinear m t x y wm = sampleNearest m t x y wm := by
  intro x y
  obtain ⟨hsx, hsy⟩ : t.sx ≤ 12 ∧ t.sy ≤ 12 := of_decide_eq_true ht
  obtain ⟨hi, hj⟩ := hij
  have hfx : fraction (biased x t.minx wm.clampU) t.sx = 0 := centre_fraction hsx hi _
  have hfy : fraction (biased y t.miny wm.clampV) t.sy = 0 := centre_fraction hsy hj _
  have hnx : nearestX t x wm = i := centre_nearest hsx hi _
  have hny : nearestY t y wm = j := centre_nearest hsy hj _
  have hlx : lowerX t x wm = i := centre_lower hsx hi _
  have hly : lowerY t y wm = j := centre_lower hsy hj _
  have hnearest : sampleNearest m t x y wm = texRead m t i j := by rw [sampleNearest, hnx, hny]
  have hbilinear : sampleBilinear m t x y wm = texRead m t i j := by
    rw [sampleBilinear_of_fraction_zero m hfx hfy, hlx, hly]
  exact ⟨hnearest, hfx, hfy, hbilinear.trans hnearest.symm⟩

/-! ## Wrapped axes (41_sampler.md R205 (c)) -/

/-- A wrapped axis does not see a multiple of 2^24. -/
theorem axisAddr_wrap (c k : Int) (m : Nat) : axisAddr (c + k * 2 ^ 24) m false = axisAddr c m false := by
  simp [axisAddr]

/-- A sample sees of its coordinates only what the wrap-or-clamp step leaves (41_sampler.md R193). -/
theorem sample_congr (m : Memory) {t : Tex} {x x' y y' : Int} {wm : Wrap}
    (hx : axisAddr x' t.minx wm.clampU = axisAddr x t.minx wm.clampU)
    (hy : axisAddr y' t.miny wm.clampV = axisAddr y t.miny wm.clampV) :
    sampleNearest m t x' y' wm = sampleNearest m t x y wm ∧
    sampleBilinear m t x' y' wm = sampleBilinear m t x y wm := by
  simp only [sampleNearest, sampleBilinear, nearestX, nearestY, upperX, upperY, lowerX, lowerY, biased, hx, hy,
    and_self]

theorem sample_wrapX (m : Memory) (t : Tex) (x y k : Int) {wm : Wrap} (h : wm.clampU = false) :
    sampleNearest m t (x + k * 2 ^ 24) y wm = sampleNearest m t x y wm ∧
    sampleBilinear m t (x + k * 2 ^ 24) y wm = sampleBilinear m t x y wm :=
  sample_congr m (by rw [h, axisAddr_wrap]) rfl

theorem sample_wrapY (m : Memory) (t : Tex) (x y k : Int) {wm : Wrap} (h : wm.clampV = false) :
    sampleNearest m t x (y + k * 2 ^ 24) wm = sampleNearest m t x y wm ∧
    sampleBilinear m t x (y + k * 2 ^ 24) wm = sampleBilinear m t x y wm :=
  sample_congr m rfl (by rw [h, axisAddr_wrap])

/-! ## Gradients (41_sampler.md R197) -/

/-- The ramp at coordinate `c`: row 0's two neighbouring texels mixed, the upper one clamped. -/
def rampAt (m : Memory) (t : Tex) (c : Int) : Pixel :=
  pixLerp (weightOf c t.sx) (texRead m t (texelOf c t.sx) 0) (texRead m t (min (texelOf c t.sx + 1) (t.w - 1)) 0)

/-- A gradient sample is the ramp at the nudged coordinate. -/
theorem sampleGradient_eq_rampAt {g : GradInset} {t : Tex} (ht : t.sizeOk = true) (m : Memory) (x : Int) :
    sampleGradient g m t x = rampAt m t (gradCoord g t x) := by
  rw [rampAt, weightOf_natCast, texelOf_natCast _ (sizeOk_le ht).1]
  rfl

theorem clamp_inside {x : Int} (h0 : 0 ≤ x) (h1 : x < 2 ^ 24) : clamp x 0 (2 ^ 24) = x := by
  simp only [clamp]
  omega

/-- ULP does not move a coordinate below 2^24. -/
theorem gradCoord_ulp (t : Tex) {x : Int} (h0 : 0 ≤ x) (h1 : x < 2 ^ 24) : (gradCoord .ulp t x : Int) = x := by
  rw [gradCoord, clamp_inside h0 h1, gradInset, if_neg (by omega), Int.toNat_of_nonneg h0]

/-- SCALE moves a coordinate by its share of a texel. -/
theorem gradCoord_scale (t : Tex) {x : Int} (h0 : 0 ≤ x) (h1 : x < 2 ^ 24) :
    (gradCoord .scale t x : Int) = x - x / 2 ^ t.sx := by
  rw [gradCoord, clamp_inside h0 h1, gradInset, Nat.shiftRight_eq_div_pow, Nat.cast_sub (Nat.div_le_self _ _)]
  push_cast
  rw [Int.toNat_of_nonneg h0]

/-- Up to 0 the coordinate is 0. -/
theorem gradCoord_below (g : GradInset) (t : Tex) {x : Int} (h : x ≤ 0) : gradCoord g t x = 0 := by
  have hclamp : (clamp x 0 (2 ^ 24)).toNat = 0 := by simp only [clamp]; omega
  rw [gradCoord, hclamp]
  cases g <;> simp [gradInset]

/-- From 2^24 on the lower neighbour is the last texel: the nudge moves 2^24 by no more than a texel. -/
theorem gradLower_above (g : GradInset) {t : Tex} (ht : t.sizeOk = true) {x : Int} (h : 2 ^ 24 ≤ x) :
    gradLower g t x = t.w - 1 := by
  have hclamp : (clamp x 0 (2 ^ 24)).toNat = 2 ^ 24 := by simp only [clamp]; omega
  have hpow : 2 ^ 24 = 2 ^ (24 - t.sx) * t.w := by rw [Tex.w, ← Nat.pow_add, Nat.sub_add_cancel (sizeOk_le ht).1]
  have hw : 0 < t.w := Nat.two_pow_pos _
  have htexel : 0 < 2 ^ (24 - t.sx) := Nat.two_pow_pos _
  have hscale : 2 ^ 24 >>> t.sx = 2 ^ (24 - t.sx) := by
    rw [Nat.shiftRight_eq_div_pow, hpow]; exact Nat.mul_div_cancel _ hw
  have hcoord : 2 ^ 24 - 2 ^ (24 - t.sx) ≤ gradCoord g t x ∧ gradCoord g t x < 2 ^ 24 := by
    refine ⟨?_, gradCoord_lt g (sizeOk_le ht).1 x⟩
    rw [gradCoord, hclamp]
    cases g with
    | ulp => rw [gradInset, if_pos rfl]; omega
    | scale => rw [gradInset, hscale]
  rw [gradLower, Nat.shiftRight_eq_div_pow]
  rw [hpow] at hcoord
  refine Nat.div_eq_of_lt_le ?_ ?_
  · rw [Nat.sub_mul, Nat.one_mul, Nat.mul_comm]; exact hcoord.1
  · rw [Nat.sub_add_cancel hw, Nat.mul_comm]; exact hcoord.2

theorem sampleGradient_below (g : GradInset) (m : Memory) (t : Tex) {x : Int} (h : x ≤ 0) :
    sampleGradient g m t x = texRead m t 0 0 := by
  simp [sampleGradient, gradLower, gradCoord_below g t h, fraction]

theorem sampleGradient_above (g : GradInset) (m : Memory) {t : Tex} (ht : t.sizeOk = true) {x : Int}
    (h : 2 ^ 24 ≤ x) : sampleGradient g m t x = texRead m t (t.w - 1) 0 := by
  have hlower := gradLower_above g ht h
  have hupper : gradUpper g t x = t.w - 1 := by rw [gradUpper, hlower]; omega
  rw [sampleGradient, hlower, hupper, pixLerp_self]

/-! ## The sampling commands -/

section
variable {s : State} {a : Slot}

theorem smpNearest_completes {wm : Wrap} (h : Ready (.smpNearest a wm) s) :
    ∃ t, exec (.smpNearest a wm) s = .next t ∧
      CompletedPixel s t (sampleNearest s.mem (slotTex s.snap a) (param s.snap 0) (param s.snap 1) wm) :=
  runSample_completes h rfl rfl

theorem smpBilinear_completes {wm : Wrap} (h : Ready (.smpBilinear a wm) s) :
    ∃ t, exec (.smpBilinear a wm) s = .next t ∧
      CompletedPixel s t (sampleBilinear s.mem (slotTex s.snap a) (param s.snap 0) (param s.snap 1) wm) :=
  runSample_completes h rfl rfl

theorem smpFiltered_completes {m : Mode} (h : Ready (.smpFiltered a m) s) :
    ∃ t, exec (.smpFiltered a m) s = .next t ∧
      CompletedPixel s t (sampleFiltered s.mem (slotTex s.snap a) (param s.snap 0) (param s.snap 1) m) :=
  runSample_completes h rfl rfl

theorem smpGradient_completes (h : Ready (.smpGradient a) s) :
    ∃ t, exec (.smpGradient a) s = .next t ∧
      CompletedPixel s t (sampleGradient s.cfg.gradInset s.mem (slotTex s.snap a) (param s.snap 0)) :=
  runSample_completes h rfl rfl

end

/-- SMP.FILTERED is the command its filter bit names (41_sampler.md R202): their checks are the same, and so are
their samples. -/
theorem exec_smpFiltered (a : Slot) (m : Mode) (s : State) :
    exec (.smpFiltered a m) s = exec (if m.bilinear then .smpBilinear a m.wrap else .smpNearest a m.wrap) s := by
  obtain ⟨wm, bilinear⟩ := m
  cases bilinear <;> rfl

/-! ## The statements -/

/-- Settles O35: the coordinate's column and row are those of the prose. -/
theorem nearestReturnsTheTexel : Obligations.NearestReturnsTheTexel := by
  intro s a wm h A
  obtain ⟨hsize, -⟩ : SlotOk s.snap a := h.slotOk List.mem_cons_self
  obtain ⟨hsx, hsy⟩ := sizeOk_le hsize
  have hsample := smpNearest_completes h
  rwa [sampleNearest, nearestX_eq hsx, nearestY_eq hsy] at hsample

/-- Settles O36: the biased coordinates are those of the prose. -/
theorem bilinearMixesFourTexels : Obligations.BilinearMixesFourTexels := by
  intro s a wm h A X Y T
  obtain ⟨hsize, -⟩ : SlotOk s.snap a := h.slotOk List.mem_cons_self
  have hsample := smpBilinear_completes h
  rwa [sampleBilinear_eq hsize _ (biased_eq_onAxis _ _ _) (biased_eq_onAxis _ _ _)] at hsample

/-- Settles O37, by the command that the filter bit names. -/
theorem filteredChoosesTheFilter : Obligations.FilteredChoosesTheFilter := by
  intro s a m h
  obtain ⟨t, ht, hend, honly, -⟩ := smpFiltered_completes h
  exact ⟨t, ht, hend, honly, (exec_smpFiltered a m s).symm.trans ht⟩

/-- Settles O38, by the coordinate below, above and inside the ramp. -/
theorem gradientReadsTheRamp : Obligations.GradientReadsTheRamp := by
  intro s a h A x ramp
  obtain ⟨hsize, -⟩ : SlotOk s.snap a := h.slotOk List.mem_cons_self
  have hsample := smpGradient_completes h
  refine ⟨fun hlow => ?below, fun hhigh => ?above, fun h0 h1 hg => ?ulp, fun h0 h1 hg => ?scale⟩
  case below => rwa [sampleGradient_below _ _ _ hlow] at hsample
  case above => rwa [sampleGradient_above _ _ hsize hhigh] at hsample
  case ulp => rwa [sampleGradient_eq_rampAt hsize, hg, gradCoord_ulp A h0 h1] at hsample
  case scale => rwa [sampleGradient_eq_rampAt hsize, hg, gradCoord_scale A h0 h1] at hsample

end Sys2Proof.Machine

/-! TEX.COPY: a source apart from the destination, the destination itself, and a source one texel before it
(41_sampler.md R204, R205 (d); 20_memory.md R105). -/

namespace Sys2Proof.Machine

/-! ## Writing back what is read -/

theorem pixelWord_pixelOfWord (w : BitVec 64) : pixelWord (pixelOfWord w) = w := by
  rw [pixelWord_eq_append]
  exact (append_channels w).symm

/-- A word written back where it was read changes no byte (20_memory.md R93). -/
theorem read_memWrite_memRead (n : Nat) {m : Memory} (hm : m.wf) (addr b : Nat) :
    (memWrite m addr (memRead m addr n) n).read b = m.read b := by
  by_cases hb : b < addr ∨ addr + n ≤ b
  · exact read_memWrite_other n m _ hb
  · obtain ⟨k, rfl⟩ := Nat.exists_eq_add_of_le (show addr ≤ b by omega)
    have hpart := memRead_part m addr k 1 (n - k - 1)
    rw [show k + (1 + (n - k - 1)) = n by omega] at hpart
    rw [read_memWrite_byte n hm _ _ (by omega)]
    exact BitVec.eq_of_toNat_eq hpart

/-- A texel written back where it was read changes no byte (20_memory.md R94). -/
theorem read_texWrite_texRead {m : Memory} (hm : m.wf) (t : Tex) (x y b : Nat) :
    (texWrite m t x y (texRead m t x y)).read b = m.read b := by
  rw [texWrite, texRead, putPixel, pixelAt, pixelWord_pixelOfWord, BitVec.toNat_ofNat,
    Nat.mod_eq_of_lt (memRead_lt m _ 8)]
  exact read_memWrite_memRead 8 hm _ b

/-- A texture copied to itself keeps every byte. -/
theorem copyTex_self {m : Memory} (hm : m.wf) (t : Tex) : SameEverywhere m (copyTex t t m) := by
  have hkeeps : (copyTex t t m).wf ∧ SameEverywhere m (copyTex t t m) :=
    overTex_keeps (P := fun m' => m'.wf ∧ SameEverywhere m m') ⟨hm, fun _ => rfl⟩ fun x y _ _ ⟨hwf, hsame⟩ =>
      ⟨texWrite_wf hwf t x y _, fun b => (read_texWrite_texRead hwf t x y b).trans (hsame b)⟩
  exact hkeeps.2

/-! ## A source one texel before the destination -/

/-- What each texel's visit carries from its row-major index to the next holds after all of them
(20_memory.md R105). -/
theorem overTex_holds {α : Type} {P : Nat → α → Prop} {d : Tex} {f : Nat → Nat → α → α} {m : α}
    (h0 : P 0 m) (hs : ∀ x y m, InTex d x y → P (y * d.w + x) m → P (y * d.w + x + 1) (f x y m)) :
    P (d.h * d.w) (overTex d f m) := by
  refine loop_holds (P := fun y m => P (y * d.w) m) d.h (by simpa using h0) fun y hy m hm => ?_
  have hrow := loop_holds (P := fun x m => P (y * d.w + x) m) d.w hm fun x hx m hm => hs x y m ⟨hx, hy⟩ hm
  rwa [Nat.succ_mul]

/-- The pixels from address `base` on, `n` of them after the first, are all `p`. -/
def FilledFrom (base : Nat) (p : Pixel) (n : Nat) (m : Memory) : Prop :=
  m.wf ∧ ∀ j ≤ n, pixelAt m (base + 8 * j) = p

/-- The last of the filled pixels, copied to the place after it, fills that place too. -/
theorem FilledFrom.copy_next {base n : Nat} {p : Pixel} {m : Memory} (h : FilledFrom base p n m) :
    FilledFrom base p (n + 1) (putPixel m (base + 8 * (n + 1)) (pixelAt m (base + 8 * n))) := by
  obtain ⟨hwf, hfilled⟩ := h
  refine ⟨putPixel_wf hwf _ _, fun j hj => ?_⟩
  rw [hfilled n le_rfl]
  rcases Nat.lt_or_eq_of_le hj with hlt | rfl
  · rw [pixelAt_putPixel_other _ _ (by omega), hfilled j (by omega)]
  · exact pixelAt_putPixel_same hwf _ _

/-- Each texel copied one place on is read again as the next texel's source, so the first spreads over the
destination. -/
theorem copyTex_spreads {m : Memory} (hm : m.wf) {d a : Tex} (hsx : d.sx = a.sx) (hbase : d.base = a.base + 8) :
    FilledFrom a.base (texRead m a 0 0) (d.h * d.w) (copyTex d a m) := by
  refine overTex_holds ⟨hm, fun j hj => ?_⟩ fun x y m' _ hfilled => ?_
  · obtain rfl : j = 0 := Nat.le_zero.1 hj
    simp [texRead, Tex.addr]
  · have hsource : a.addr x y = a.base + 8 * (y * d.w + x) := by rw [Tex.addr, Tex.w, hsx]
    have hdest : d.addr x y = a.base + 8 * (y * d.w + x + 1) := by rw [Tex.addr, Tex.w, hbase]; omega
    have hnext := hfilled.copy_next
    rwa [← hsource, ← hdest] at hnext

theorem copyTex_texel_shifted {m : Memory} (hm : m.wf) {d a : Tex} (hsx : d.sx = a.sx) (hbase : d.base = a.base + 8)
    {x y : Nat} (h : InTex d x y) : texRead (copyTex d a m) d x y = texRead m a 0 0 := by
  obtain ⟨hx, hy⟩ := h
  obtain ⟨-, hfilled⟩ := copyTex_spreads hm hsx hbase
  have hindex : y * d.w + x + 1 ≤ d.h * d.w :=
    calc y * d.w + x + 1 ≤ (y + 1) * d.w := by rw [Nat.succ_mul]; omega
      _ ≤ d.h * d.w := Nat.mul_le_mul_right _ hy
  have hdest : d.addr x y = a.base + 8 * (y * d.w + x + 1) := by rw [Tex.addr, Tex.w, hbase]; omega
  rw [texRead, hdest, hfilled _ hindex]

/-! ## The command -/

theorem eq_of_compatible {t u : Tex} (h : t.compatible u = true) (hbase : t.base = u.base) : t = u := by
  obtain ⟨hsx, hsy⟩ := compatible_iff.1 h
  exact congr (congr (congrArg Tex.mk hbase) hsx) hsy

/-- A legal TEX.COPY completes with the copy. -/
theorem exec_texCopy {s : State} {d a : Slot} (h : Ready (.texCopy d a) s) :
    exec (.texCopy d a) s =
      .next (finish { s with mem := copyTex (slotTex s.snap d) (slotTex s.snap a) s.mem }) :=
  runTexture_completes h rfl rfl

/-- After a TEX.COPY from a source apart the destination equals the source, which is as it was (41_sampler.md
R205 (d)). -/
theorem copyTex_equals_source {m : Memory} (hm : m.wf) {d a : Tex} (hc : d.compatible a = true)
    (hapart : d.extent.meets a.extent = false) {x y : Nat} (h : InTex d x y) :
    texRead (copyTex d a m) d x y = texRead (copyTex d a m) a x y := by
  obtain ⟨hsx, hsy⟩ := compatible_iff.1 hc
  have hin : InTex a x y := by simpa only [InTex, Tex.w, Tex.h, hsx, hsy] using h
  rw [copyTex_texel hm hc hapart h, texRead_apart hapart (copyTex_sameOutside d a m) hin]

/-! ## The statements -/

/-- Settles O40, by the three positions of the destination. -/
theorem texCopyCopiesInOrder : Obligations.TexCopyCopiesInOrder := by
  intro s d a hwf h D A
  have hc : D.compatible A = true := h.sameSize rfl List.mem_cons_self
  obtain ⟨hsx, -⟩ := compatible_iff.1 hc
  refine ⟨_, exec_texCopy h, ⟨rfl, rfl, copyTex_sameOutside D A s.mem⟩, fun hapart x y hin => ?apart,
    fun hbase => ?same, fun hbase x y hin => ?shifted⟩
  case apart => exact copyTex_texel hwf hc hapart hin
  case same =>
    show SameEverywhere s.mem (copyTex D A s.mem)
    rw [← eq_of_compatible hc hbase]
    exact copyTex_self hwf D
  case shifted => exact copyTex_texel_shifted hwf hsx hbase hin

/-- Settles O39: texel centres, wrapped axes, and copies apart. -/
theorem samplerProperties : Obligations.SamplerProperties := by
  refine ⟨fun m t wm i j ht hij => sample_centre m wm ht hij,
    fun m t x y k wm => ⟨sample_wrapX m t x y k, sample_wrapY m t x y k⟩, fun s d a hwf h hapart => ?_⟩
  have hc : SameSize s.snap d a := h.sameSize rfl List.mem_cons_self
  exact ⟨_, exec_texCopy h, fun x y hin => copyTex_equals_source hwf hc hapart hin⟩

end Sys2Proof.Machine

/-! Errors of the two lists: the count, the weight and the pointer of CELLS and LINEAR.COMBINE, and a list read
that the memory port fails (42_generators.md R241, 44_combiners.md R371, 60_exceptions.md R404 (4), (5), R406). -/

namespace Sys2Proof.Machine

/-! ## The PARAM checks -/

/-- CELLS' two checks in their order (42_generators.md R241). -/
theorem firstError_cellChecks (k : Snapshot) (outer : Bool) :
    firstError (cellChecks k outer) =
      if param k 1 < (if outer then 2 else 1) ∨ 256 < param k 1 then some ⟨.count, 1⟩
      else if paramU k 0 % 8 ≠ 0 ∨ 2 ^ 32 < paramU k 0 + 16 * param k 1 then some ⟨.align, 0⟩ else none := by
  simp only [cellChecks, firstError_failIf, decide_eq_true_eq]
  rfl

/-- LINEAR.COMBINE's three checks in their order (44_combiners.md R371). -/
theorem firstError_combineChecks (k : Snapshot) :
    firstError (combineChecks k) =
      if param k 1 < 0 ∨ 255 < param k 1 then some ⟨.count, 1⟩
      else if param k 2 < -127 * 65536 ∨ 127 * 65536 < param k 2 then some ⟨.coef, 2⟩
      else if 0 < param k 1 ∧ (paramU k 0 % 4 ≠ 0 ∨ 2 ^ 32 < paramU k 0 + 24 * param k 1) then some ⟨.align, 0⟩
      else none := by
  simp only [combineChecks, firstError_failIf, decide_eq_true_eq, Bool.not_eq_true', coefOk_false]
  rfl

section
variable {s : State} {d a : Slot} {outer : Bool}

/-- The slots of CELLS right, its PARAM checks give the first error of the register checks. -/
theorem firstError_registerChecks_cells (hd : SlotOk s.snap d) (ha : SlotOk s.snap a) :
    firstError (registerChecks (.cells d a outer) s.snap) = firstError (cellChecks s.snap outer) := by
  have hslots : ∀ n ∈ usedSlots (.cells d a outer), SlotOk s.snap n := by simp [usedSlots, hd, ha]
  rw [registerChecks, firstError_append, firstError_append, slotChecks_none.2 hslots]
  rfl

/-- The slot of LINEAR.COMBINE right, its PARAM checks give the first error of the register checks. -/
theorem firstError_registerChecks_linearCombine (hd : SlotOk s.snap d) :
    firstError (registerChecks (.linearCombine d) s.snap) = firstError (combineChecks s.snap) := by
  have hslots : ∀ n ∈ usedSlots (.linearCombine d), SlotOk s.snap n := by simp [usedSlots, hd]
  rw [registerChecks, firstError_append, firstError_append, slotChecks_none.2 hslots]
  rfl

end

/-! ## The list reads -/

theorem listReadCheck_self (k : Nat) : listReadCheck (.listError k) k = some busError := by
  simp [listReadCheck, failIf]

theorem listReadCheck_other {k i : Nat} (h : k ≠ i) : listReadCheck (.listError k) i = none := by
  simp [listReadCheck, failIf, h]

/-- The read of the record that the port fails ends the reads of a list (60_exceptions.md R406 (a)). -/
theorem listReadChecks_fail {k : Nat} (n i : Nat) (hi : i ≤ k) (hk : k < i + n) :
    firstError (listReadChecks (.listError k) i n) = some busError := by
  induction n generalizing i with
  | zero => omega
  | succ n ih =>
    rw [listReadChecks]
    rcases hi.eq_or_lt with rfl | hlt
    · rw [listReadCheck_self]; rfl
    · rw [listReadCheck_other hlt.ne']
      exact ih (i + 1) hlt (by omega)

/-- The records before it passing their checks, the read of the record that the port fails gives the error
(60_exceptions.md R404 (5)). -/
theorem inputChecks_fail {k : Nat} {m : Memory} {l : Nat} (n i : Nat) (hi : i ≤ k) (hk : k < i + n)
    (hbefore : ∀ j, i ≤ j → j < k → firstError (recordChecks j (inputRecord m l j)) = none) :
    firstError (inputChecks (.listError k) i (inputRecords m l i n)) = some busError := by
  induction n generalizing i with
  | zero => omega
  | succ n ih =>
    rw [inputRecords, inputChecks]
    rcases hi.eq_or_lt with rfl | hlt
    · rw [listReadCheck_self]; rfl
    · have hrest := ih (i + 1) hlt (by omega) fun j hj => hbefore j (by omega)
      rw [listReadCheck_other hlt.ne', List.cons_append, firstError, firstError_append, hbefore i le_rfl hlt, hrest]
      rfl

/-- Past the register checks, a command whose list meets no window ends with the first error of its list, and
has no other effect. -/
theorem failsWith_of_listChecks {i : Instr} {s : State} {e : CmdError} {list : Extent} {go : Result}
    (hi : exec i s = afterChecks s (registerChecks i s.snap)
      (unlessSideEffects s [list] (afterChecks s (listChecks i s.snap s.mem s.port) go)))
    (hreg : firstError (registerChecks i s.snap) = none) (hwin : reachesWindow s.cfg [list] = false)
    (hlist : firstError (listChecks i s.snap s.mem s.port) = some e) : FailsWith i s e := by
  have hexec : exec i s = .next (raiseError s e) := by
    rw [hi, afterChecks_pass hreg, unlessSideEffects, hwin, afterChecks_fail hlist]
    rfl
  exact ⟨_, hexec, raiseError_endedWithError s e, raiseError_onlyError s e⟩

/-! ## The statement -/

/-- Settles O21: the PARAM checks in their order, then the first list read that the port fails. -/
theorem listParamErrors : Obligations.ListParamErrors := by
  intro s d hd
  refine ⟨fun a outer ha => ?cells, ?combine⟩
  case cells =>
    have hreg := firstError_registerChecks_cells (outer := outer) hd ha
    rw [firstError_cellChecks] at hreg
    refine ⟨fun hcount => failsWith_of_registerChecks (hreg.trans (if_pos hcount)), fun hlow hhigh => ?_⟩
    rw [if_neg (by omega)] at hreg
    refine ⟨fun halign => failsWith_of_registerChecks (hreg.trans (if_pos halign)),
      fun haligned hfits hwin k hport hk => ?_⟩
    rw [if_neg (by omega)] at hreg
    refine failsWith_of_listChecks rfl hreg hwin ?_
    rw [hport]
    exact listReadChecks_fail _ 0 (Nat.zero_le k) (by rw [listCount]; omega)
  case combine =>
    have hreg := firstError_registerChecks_linearCombine hd
    rw [firstError_combineChecks] at hreg
    refine ⟨fun hcount => failsWith_of_registerChecks (hreg.trans (if_pos hcount)), fun hlow hhigh => ?_⟩
    rw [if_neg (by omega)] at hreg
    refine ⟨fun hcoef => failsWith_of_registerChecks (hreg.trans (if_pos hcoef)), fun hcl hch hpos => ?_⟩
    rw [if_neg (by omega)] at hreg
    refine ⟨fun halign => failsWith_of_registerChecks (hreg.trans (if_pos ⟨hpos, halign⟩)),
      fun haligned hfits hwin k hport hk hbefore => ?_⟩
    rw [if_neg (by omega)] at hreg
    refine failsWith_of_listChecks rfl hreg hwin ?_
    rw [hport]
    exact inputChecks_fail _ 0 (Nat.zero_le k) (by rw [listCount]; omega) fun j _ => hbefore j

end Sys2Proof.Machine

/-! NOISE's permutation table: the sort by digits of (key, index) (42_generators.md R230). -/

namespace Sys2Proof.Machine

/-! ## The sort -/

/-- The order of entries by the low `b` bits of the key, equal values by the index. -/
def LowBitsBefore (b : Nat) (e f : Nat × Nat) : Prop :=
  e.1 % 2 ^ b < f.1 % 2 ^ b ∨ (e.1 % 2 ^ b = f.1 % 2 ^ b ∧ e.2 < f.2)

/-- The low bits with one bit more. -/
theorem mod_two_pow_succ_testBit (n b : Nat) :
    n % 2 ^ (b + 1) = n % 2 ^ b + 2 ^ b * (n.testBit b).toNat := by
  rw [Nat.mod_pow_succ, Nat.toNat_testBit]

theorem LowBitsBefore.succ_of_eq_bit {b : Nat} {e f : Nat × Nat} (hbit : e.1.testBit b = f.1.testBit b)
    (h : LowBitsBefore b e f) : LowBitsBefore (b + 1) e f := by
  simp only [LowBitsBefore, mod_two_pow_succ_testBit, hbit] at *
  omega

theorem lowBitsBefore_succ_of_bit {b : Nat} {e f : Nat × Nat} (he : e.1.testBit b = false) (hf : f.1.testBit b = true) :
    LowBitsBefore (b + 1) e f := by
  have hlow : e.1 % 2 ^ b < 2 ^ b := Nat.mod_lt _ (Nat.two_pow_pos b)
  simp only [LowBitsBefore, mod_two_pow_succ_testBit, he, hf, Bool.toNat_false, Bool.toNat_true]
  omega

/-- Entries in the order of the low bits are put in the order of one bit more: the split keeps the order of
those whose bit is equal. -/
theorem splitOnBit_pairwise {b : Nat} {l : List (Nat × Nat)} (h : l.Pairwise (LowBitsBefore b)) :
    (splitOnBit b l).Pairwise (LowBitsBefore (b + 1)) := by
  have half (v : Bool) (p : Nat × Nat → Bool) (hp : ∀ e, p e = true → e.1.testBit b = v) :
      (l.filter p).Pairwise (LowBitsBefore (b + 1)) := by
    refine (h.filter p).imp_of_mem fun he hf hef => hef.succ_of_eq_bit ?_
    rw [hp _ (List.mem_filter.1 he).2, hp _ (List.mem_filter.1 hf).2]
  refine List.pairwise_append.2 ⟨half false _ (by simp), half true _ (by simp), fun e he f hf => ?_⟩
  exact lowBitsBefore_succ_of_bit (by simpa using (List.mem_filter.1 he).2) (by simpa using (List.mem_filter.1 hf).2)

theorem splitOnBit_perm (b : Nat) (l : List (Nat × Nat)) : (splitOnBit b l).Perm l :=
  List.perm_append_comm.trans (List.filter_append_perm (fun e => e.1.testBit b) l)

theorem sortOnBits_perm (l : List (Nat × Nat)) (b : Nat) : (sortOnBits l b).Perm l := by
  induction b with
  | zero => exact .refl l
  | succ b ih => exact (splitOnBit_perm b _).trans ih

/-- A list in the order of its indices is sorted by the low bits of its keys and by index. -/
theorem sortOnBits_pairwise {l : List (Nat × Nat)} (h : l.Pairwise fun e f => e.2 < f.2) (b : Nat) :
    (sortOnBits l b).Pairwise (LowBitsBefore b) := by
  induction b with
  | zero => exact h.imp fun hef => .inr ⟨by simp [Nat.mod_one], hef⟩
  | succ b ih => exact splitOnBit_pairwise ih

/-! ## The keys -/

theorem length_permKeys (taps s : Word) (i n : Nat) : (permKeys taps s i n).length = n := by
  induction n generalizing s i with
  | zero => rfl
  | succ n ih => simp [permKeys, ih]

/-- Each entry is an index with the LFSR's value after as many steps. -/
theorem mem_permKeys {seed taps : Word} {i n : Nat} {e : Nat × Nat}
    (h : e ∈ permKeys taps (lfsrKey seed taps i) i n) :
    e.1 = (lfsrKey seed taps e.2).toNat ∧ i ≤ e.2 ∧ e.2 < i + n := by
  induction n generalizing i with
  | zero => cases h
  | succ n ih =>
    rcases List.mem_cons.1 h with rfl | h
    · exact ⟨rfl, le_rfl, by omega⟩
    · obtain ⟨hkey, hlow, hhigh⟩ := ih (i := i + 1) h
      exact ⟨hkey, by omega, by omega⟩

theorem permKeys_pairwise (seed taps : Word) (i n : Nat) :
    (permKeys taps (lfsrKey seed taps i) i n).Pairwise fun e f => e.2 < f.2 := by
  induction n generalizing i with
  | zero => exact .nil
  | succ n ih =>
    refine List.pairwise_cons.2 ⟨fun e he => ?_, ih (i + 1)⟩
    obtain ⟨-, hlow, -⟩ := mem_permKeys (i := i + 1) he
    exact hlow

/-! ## The table -/

/-- The entries of the table, each with its key. -/
def sortedKeys (seed taps : Word) : List (Nat × Nat) := sortOnBits (permKeys taps seed 0 4096) 32

theorem permTable_eq (seed taps : Word) :
    permTable seed taps = (sortedKeys seed taps).map fun e => BitVec.ofNat 12 e.2 := rfl

theorem mem_sortedKeys {seed taps : Word} {e : Nat × Nat} (h : e ∈ sortedKeys seed taps) :
    e.1 = (lfsrKey seed taps e.2).toNat ∧ e.2 < 2 ^ 12 := by
  obtain ⟨hkey, -, hlt⟩ := mem_permKeys (i := 0) ((sortOnBits_perm _ _).mem_iff.1 h)
  exact ⟨hkey, by omega⟩

/-- All 32 bits of the key sorted on, the entries stand in the order of key and index. -/
theorem sortedKeys_pairwise (seed taps : Word) :
    (sortedKeys seed taps).Pairwise fun e f => e.1 < f.1 ∨ (e.1 = f.1 ∧ e.2 < f.2) := by
  have hsorted : (sortedKeys seed taps).Pairwise (LowBitsBefore 32) :=
    sortOnBits_pairwise (permKeys_pairwise seed taps 0 4096) 32
  have hmod {e : Nat × Nat} (he : e ∈ sortedKeys seed taps) : e.1 % 2 ^ 32 = e.1 := by
    rw [(mem_sortedKeys he).1]
    exact Nat.mod_eq_of_lt (lfsrKey seed taps e.2).isLt
  refine hsorted.imp_of_mem fun he hf hef => ?_
  rwa [LowBitsBefore, hmod he, hmod hf] at hef

/-- The table lists its indices in the order of key and index. -/
theorem permTable_pairwise (seed taps : Word) :
    (permTable seed taps).Pairwise fun i j =>
      lfsrKey seed taps i.toNat < lfsrKey seed taps j.toNat ∨
      (lfsrKey seed taps i.toNat = lfsrKey seed taps j.toNat ∧ i < j) := by
  rw [permTable_eq, List.pairwise_map]
  refine (sortedKeys_pairwise seed taps).imp_of_mem fun he hf hef => ?_
  obtain ⟨hke, hie⟩ := mem_sortedKeys he
  obtain ⟨hkf, hif⟩ := mem_sortedKeys hf
  simpa only [BitVec.toNat_ofNat, BitVec.lt_def, Nat.mod_eq_of_lt hie, Nat.mod_eq_of_lt hif, hke, hkf,
    BitVec.toNat_inj] using hef

theorem length_permTable (seed taps : Word) : (permTable seed taps).length = 4096 := by
  rw [permTable_eq, List.length_map, sortedKeys, (sortOnBits_perm _ _).length_eq, length_permKeys]

/-- Settles O41: the sort by digits orders the keys, and entries in a strict order are distinct. -/
theorem noiseTableOrdersKeys : Obligations.NoiseTableOrdersKeys := by
  intro seed taps
  have horder := permTable_pairwise seed taps
  refine ⟨length_permTable seed taps, horder.imp fun hij => ?_, horder⟩
  rintro rfl
  simp [BitVec.lt_irrefl] at hij

end Sys2Proof.Machine

/-! Samples of a texture apart from the destination: writing the destination leaves them as they were
(41_sampler.md R194 to R197; 20_memory.md R105). -/

namespace Sys2Proof.Machine

section
variable {d t : Tex} {m m' : Memory} (ht : t.sizeOk = true) (hdt : d.extent.meets t.extent = false)
  (h : SameOutside d.extent m m')
include ht hdt h

theorem sampleGradient_apart (g : GradInset) (x : Int) : sampleGradient g m' t x = sampleGradient g m t x := by
  have hrow : ∀ p ∈ gradientTexels g t x, texRead m' t p.1 p.2 = texRead m t p.1 p.2 := fun p hp =>
    texRead_apart hdt h (gradientTexels_inTex ht g x p hp)
  simp only [gradientTexels, List.forall_mem_cons] at hrow
  obtain ⟨hlower, hupper, -⟩ := hrow
  rw [sampleGradient, sampleGradient, hlower, hupper]

theorem sampleNearest_apart (x y : Int) (wm : Wrap) : sampleNearest m' t x y wm = sampleNearest m t x y wm :=
  texRead_apart hdt h (nearestTexels_inTex ht x y wm _ List.mem_cons_self)

theorem sampleBilinear_apart (x y : Int) (wm : Wrap) : sampleBilinear m' t x y wm = sampleBilinear m t x y wm := by
  have htexels : ∀ p ∈ bilinearTexels t x y wm, texRead m' t p.1 p.2 = texRead m t p.1 p.2 := fun p hp =>
    texRead_apart hdt h (bilinearTexels_inTex ht x y wm p hp)
  simp only [bilinearTexels, List.forall_mem_cons] at htexels
  obtain ⟨h00, h10, h01, h11, -⟩ := htexels
  simp only [sampleBilinear, h00, h10, h01, h11]

theorem sampleFiltered_apart (x y : Int) (mode : Mode) :
    sampleFiltered m' t x y mode = sampleFiltered m t x y mode := by
  unfold sampleFiltered
  split
  · exact sampleBilinear_apart ht hdt h x y mode.wrap
  · exact sampleNearest_apart ht hdt h x y mode.wrap

end

end Sys2Proof.Machine

/-! NOISE: the lattice, the fade curve, the basis function and its tiling, the sum over octaves, and the painted
texture (42_generators.md R232 to R239). -/

namespace Sys2Proof.Machine

/-! ## The lattice (R232) -/

theorem permEntry_lt (pt : Array (BitVec 12)) (j : Nat) : permEntry pt j < 4096 := (pt.getD j 0).isLt

theorem lat_bounds (pt : Array (BitVec 12)) (i j z : Nat) : -65536 ≤ lat pt i j z ∧ lat pt i j z ≤ 65504 := by
  have hhash : latHash pt i j z < 4096 := permEntry_lt pt _
  rw [lat]
  omega

/-! ## The fade curve (R233) -/

/-- The fade polynomial, before its floor. -/
def fade (t : Int) : Int := t ^ 3 * (10 * 2 ^ 32 - 15 * 2 ^ 16 * t + 6 * t ^ 2)

theorem smooth_eq (t : Int) : smooth t = fade t / 2 ^ 64 := Int.shiftRight_eq_div_pow _ _

/-- The rise of the fade polynomial is the integral of a square, `30 t² (2¹⁶ - t)²`: six times it is the step
times a sum of squares. -/
theorem fade_sub (t u : Int) :
    6 * (fade u - fade t) = (u - t) *
      (5 * (6 * (t * (2 ^ 16 - t)) + 3 * ((u - t) * (2 ^ 16 - 2 * t)) - 2 * (u - t) ^ 2) ^ 2
        + 15 * ((u - t) * (2 ^ 16 - 2 * t) - (u - t) ^ 2) ^ 2 + ((u - t) ^ 2) ^ 2) := by
  unfold fade
  ring

theorem fade_mono {t u : Int} (h : t ≤ u) : fade t ≤ fade u := by
  have hrise : 0 ≤ 6 * (fade u - fade t) := by
    rw [fade_sub]
    exact mul_nonneg (by omega) (by positivity)
  omega

theorem smooth_mono {t u : Int} (h : t ≤ u) : smooth t ≤ smooth u := by
  rw [smooth_eq, smooth_eq]
  exact Int.ediv_le_ediv (by positivity) (fade_mono h)

/-! ## The basis function and its tiling (R234) -/

theorem lerp_eq (t a b : Int) : lerp t a b = a + t * (b - a) / 2 ^ 16 := by
  rw [lerp, Int.shiftRight_eq_div_pow]
  rfl

/-- The lattice cell of a position under a mask. -/
def latticeCell (p : Word) (mask : Nat) : Nat := p.toNat / 2 ^ 16 &&& mask &&& 4095

/-- The cell after a cell under a mask. -/
def nextCell (cell mask : Nat) : Nat := (cell + 1) &&& mask &&& 4095

/-- The basis function reads of a position no more than its cell and its fraction. -/
theorem basis_eq (pt : Array (BitVec 12)) (px py : Word) (mx my z : Nat) (band : Bool) :
    basis pt px py mx my z band =
      let ix := latticeCell px mx
      let iy := latticeCell py my
      let u := smooth (px.toNat % 2 ^ 16 : Nat)
      let v := smooth (py.toNat % 2 ^ 16 : Nat)
      if band then
        lerp v (lerp u (lat pt ix iy z) (lat pt (nextCell ix mx) iy z))
          (lerp u (lat pt ix (nextCell iy my) z) (lat pt (nextCell ix mx) (nextCell iy my) z))
      else lat pt ix iy z := by
  simp only [basis, Nat.shiftRight_eq_div_pow, latticeCell, nextCell]

/-- `2 ^ f` cells on, a position has the same cell under the mask `2 ^ f - 1`. -/
theorem latticeCell_add (p : Word) (f : Nat) :
    latticeCell (p + BitVec.ofNat 32 (2 ^ f * 2 ^ 16)) (2 ^ f - 1) = latticeCell p (2 ^ f - 1) := by
  have hcells : (p + BitVec.ofNat 32 (2 ^ f * 2 ^ 16)).toNat / 2 ^ 16 % 2 ^ f = p.toNat / 2 ^ 16 % 2 ^ f := by
    rw [BitVec.toNat_add, BitVec.toNat_ofNat, Nat.add_mod_mod]
    rcases le_total f 16 with hf | hf
    · have hdvd : 2 ^ f ∣ 2 ^ 16 := Nat.pow_dvd_pow 2 hf
      rw [show 2 ^ 32 = 2 ^ 16 * 2 ^ 16 by norm_num, Nat.mod_mul_right_div_self, Nat.mod_mod_of_dvd _ hdvd,
        Nat.add_mul_div_right _ _ (by decide), Nat.add_mod_right]
    · have hdvd : 2 ^ 32 ∣ 2 ^ f * 2 ^ 16 := by rw [← Nat.pow_add]; exact Nat.pow_dvd_pow 2 (by omega)
      rw [← Nat.add_mod_mod, Nat.mod_eq_zero_of_dvd hdvd, Nat.add_zero, Nat.mod_eq_of_lt p.isLt]
  simp only [latticeCell, Nat.and_two_pow_sub_one_eq_mod, hcells]

/-- A whole number of cells on, a position has the same fraction. -/
theorem fraction_add_cells (p : Word) (f : Nat) :
    (p + BitVec.ofNat 32 (2 ^ f * 2 ^ 16)).toNat % 2 ^ 16 = p.toNat % 2 ^ 16 := by
  rw [BitVec.toNat_add, BitVec.toNat_ofNat]
  omega

theorem basis_tileX (pt : Array (BitVec 12)) (px py : Word) (f my z : Nat) (band : Bool) :
    basis pt (px + BitVec.ofNat 32 (2 ^ f * 2 ^ 16)) py (2 ^ f - 1) my z band =
      basis pt px py (2 ^ f - 1) my z band := by
  simp only [basis_eq, latticeCell_add, fraction_add_cells]

theorem basis_tileY (pt : Array (BitVec 12)) (px py : Word) (f mx z : Nat) (band : Bool) :
    basis pt px (py + BitVec.ofNat 32 (2 ^ f * 2 ^ 16)) mx (2 ^ f - 1) z band =
      basis pt px py mx (2 ^ f - 1) z band := by
  simp only [basis_eq, latticeCell_add, fraction_add_cells]

/-- Settles O42, by the fade polynomial's rise and by the cell and the fraction that a position has. -/
theorem noiseLatticeFadesAndTiles : Obligations.NoiseLatticeFadesAndTiles := by
  refine ⟨fun pt i j z => ⟨rfl, rfl, lat_bounds pt i j z⟩,
    fun t _ _ => ⟨smooth_eq t, fun u htu _ => smooth_mono htu⟩, by decide, by decide, by decide, by decide, by decide,
    fun pt px py mx my z => ?formula,
    fun pt px py f mask z band => ⟨basis_tileX pt px py f mask z band, basis_tileY pt px py f mask z band⟩⟩
  case formula =>
    dsimp only
    simp only [basis_eq, lerp_eq]
    exact ⟨rfl, rfl⟩

/-! ## The octaves (R235 to R237) -/

/-- What octave `i` adds: the basis value at `2 ^ i` times the position, its masks of `i` more bits, times the
octave's amplitude. -/
def octaveTerm (pt : Array (BitVec 12)) (z : Nat) (abs band : Bool) (px py : Word) (fx fy : Nat) (s0 f : Int)
    (i : Nat) : Int :=
  let nv := basis pt (px * BitVec.ofNat 32 (2 ^ i)) (py * BitVec.ofNat 32 (2 ^ i)) (2 ^ (fx + i) - 1)
    (2 ^ (fy + i) - 1) z band
  (if abs then max nv (-nv) else nv) * amplitude s0 f i

/-- The amplitudes after the first start from the second. -/
theorem amplitude_succ (s0 f : Int) (i : Nat) : amplitude s0 f (i + 1) = amplitude ((s0 * f + 32768) / 65536) f i := by
  induction i with
  | zero => rfl
  | succ i ih => rw [amplitude, ih, amplitude]

theorem mul_two_pow_succ (p : Word) (i : Nat) :
    p * BitVec.ofNat 32 (2 ^ (i + 1)) = (p + p) * BitVec.ofNat 32 (2 ^ i) := by
  rw [pow_succ', BitVec.ofNat_mul, ← BitVec.mul_assoc]
  congr 1
  exact BitVec.mul_two

theorem mask_succ (f : Nat) : 2 * (2 ^ f - 1) + 1 = 2 ^ (f + 1) - 1 := by
  have hpos : 0 < 2 ^ f := Nat.two_pow_pos f
  rw [pow_succ']
  omega

/-- The octaves after the first are those of twice the position, one more bit of mask and the next amplitude. -/
theorem octaveTerm_succ (pt : Array (BitVec 12)) (z : Nat) (abs band : Bool) (px py : Word) (fx fy : Nat)
    (s0 f : Int) (i : Nat) :
    octaveTerm pt z abs band px py fx fy s0 f (i + 1) =
      octaveTerm pt z abs band (px + px) (py + py) (fx + 1) (fy + 1) ((s0 * f + 32768) / 65536) f i := by
  simp only [octaveTerm, mul_two_pow_succ, amplitude_succ, Nat.add_right_comm _ 1 i, Nat.add_assoc]

/-- The octave loop adds the octaves' terms to what it has. -/
theorem octaves_eq_sum (pt : Array (BitVec 12)) (z : Nat) (abs band : Bool) (f : Int) (n : Nat) (px py : Word)
    (fx fy : Nat) (s0 acc : Int) :
    octaves pt z f abs band n px py (2 ^ fx - 1) (2 ^ fy - 1) s0 acc =
      acc + ((List.range n).map (octaveTerm pt z abs band px py fx fy s0 f)).sum := by
  induction n generalizing px py fx fy s0 acc with
  | zero => simp [octaves]
  | succ n ih =>
    have hfirst : octaveTerm pt z abs band px py fx fy s0 f 0 =
        (if abs then absInt (basis pt px py (2 ^ fx - 1) (2 ^ fy - 1) z band)
          else basis pt px py (2 ^ fx - 1) (2 ^ fy - 1) z band) * s0 := by
      simp [octaveTerm, amplitude, absInt]
    have hrest : (octaveTerm pt z abs band px py fx fy s0 f) ∘ Nat.succ =
        octaveTerm pt z abs band (px + px) (py + py) (fx + 1) (fy + 1) ((s0 * f + 32768) / 65536) f :=
      funext fun i => octaveTerm_succ pt z abs band px py fx fy s0 f i
    rw [octaves, mask_succ, mask_succ, ih, List.range_succ_eq_map, List.map_cons, List.sum_cons, List.map_map,
      hrest, hfirst, add_assoc, Int.shiftRight_eq_div_pow]
    rfl

/-- Settles O43, the sum started from 0. -/
theorem noiseSumsOctaves : Obligations.NoiseSumsOctaves := by
  intro pt z fx fy n f s0 abs band px py
  rw [octaves_eq_sum, zero_add]
  rfl

/-! ## The painted texture (R236 to R239) -/

theorem octaveScale_eq_firstAmplitude (f : Int) (oct : Nat) (normalize : Bool) :
    octaveScale f oct normalize = firstAmplitude f oct normalize := by
  unfold octaveScale firstAmplitude
  split
  · split
    · exact Int.fdiv_eq_ediv_of_nonneg _ (Int.natCast_nonneg oct)
    · rfl
  · split
    · rfl
    · exact Int.fdiv_eq_ediv_of_nonneg _ (by omega)

theorem latticeStart_eq_firstPosition (sx fx x : Nat) : latticeStart sx fx x = firstPosition sx fx x := by
  rw [latticeStart, firstPosition, Nat.shiftLeft_eq, Nat.one_shiftLeft, Nat.shiftRight_one]

/-- The gradient index the engine computes is the one the rules give. -/
theorem noiseAt_eq_octaveIndex (k : Snapshot) (pt : Array (BitVec 12)) (d : Tex) (abs normalize band : Bool)
    (x y : Nat) : noiseAt k pt d abs normalize band x y = octaveIndex k pt d abs normalize band x y := by
  rw [noiseAt, octaves_eq_sum, zero_add, octaveScale_eq_firstAmplitude, latticeStart_eq_firstPosition,
    latticeStart_eq_firstPosition, noiseIndex, Int.shiftRight_eq_div_pow, Int.shiftRight_eq_div_pow]
  rfl

/-- PARAM[0..3] of NOISE in their ranges pass its checks (42_generators.md R238). -/
theorem noiseChecks_pass {k : Snapshot} (h0 : 0 ≤ param k 0) (h0' : param k 0 ≤ 12) (h1 : 0 ≤ param k 1)
    (h1' : param k 1 ≤ 12) (h2 : 1 ≤ param k 2) (h2' : param k 2 ≤ 16) (h3 : 0 < param k 3) :
    firstError (noiseChecks k) = none := by
  rw [firstError_noiseChecks, if_neg (by omega), if_neg (by omega), if_neg (by omega), if_neg (by omega)]

@[simp] theorem buildPerm_cfg (s : State) : (buildPerm s).cfg = s.cfg := by rw [buildPerm_eq]
@[simp] theorem buildPerm_mem (s : State) : (buildPerm s).mem = s.mem := by rw [buildPerm_eq]
@[simp] theorem buildPerm_port (s : State) : (buildPerm s).port = s.port := by rw [buildPerm_eq]

/-- The table after NOISE: kept if it was in use, else the one of R230 (10_state.md R60). -/
theorem buildPerm_perm (s : State) :
    (buildPerm s).perm =
      if s.status.permReady then s.perm else (permTable s.cfg.permSeed s.cfg.permTaps).toArray := by
  unfold buildPerm
  split <;> rfl

/-- The body of NOISE: each texel the gradient at its index. -/
def noiseBody (s : State) (d a : Slot) (abs normalize band : Bool) : Memory → Memory :=
  paint (slotTex s.snap d) fun x y m =>
    sampleGradient s.cfg.gradInset m (slotTex s.snap a)
      (noiseAt s.snap (buildPerm s).perm (slotTex s.snap d) abs normalize band x y)

/-- A legal NOISE completes with the table built and its body done to memory. -/
theorem exec_noise {s : State} {d a : Slot} {abs normalize band : Bool} (h : Ready (.noise d a abs normalize band) s)
    (hparam : firstError (noiseChecks s.snap) = none) :
    exec (.noise d a abs normalize band) s =
      .next (finish { buildPerm s with mem := noiseBody s d a abs normalize band s.mem }) := by
  have hquiet : Quiet (buildPerm s) (footprint s.snap s.mem (.noise d a abs normalize band)) := by
    simpa only [Quiet, buildPerm_port, buildPerm_cfg] using h.quiet
  have hbody := runTexture_quiet hquiet (slotTex s.snap d) (noiseBody s d a abs normalize band)
  rw [buildPerm_mem] at hbody
  exact (afterChecks_pass (registerChecks_of_ready h hparam)).trans hbody

/-- Settles O44: the table built or kept, and each texel painted from a gradient that the painting leaves
alone. -/
theorem noisePaintsItsGradient : Obligations.NoisePaintsItsGradient := by
  intro s d a abs normalize band hwf hready h0 h0' h1 h1' h2 h2' h3 D
  refine ⟨_, exec_noise hready (noiseChecks_pass h0 h0' h1 h1' h2 h2' h3), ?state, paint_sameOutside D _ s.mem,
    fun hapart x y hin => ?texel⟩
  case state =>
    rw [← buildPerm_perm, buildPerm_eq]
    rfl
  case texel =>
    have ha : (slotTex s.snap a).sizeOk = true := (hready.slotOk (by simp [usedSlots])).1
    rw [finish_perm, finish_mem, ← noiseAt_eq_octaveIndex]
    exact paint_texel_apart hwf hin fun m' hm' => sampleGradient_apart ha hapart hm' _ _

end Sys2Proof.Machine

/-! CELLS: the integer square root, the search for the nearest centres, and the painted texture
(42_generators.md R240 to R246). -/

namespace Sys2Proof.Machine

/-! ## The square root (00_scope.md R11) -/

/-- Bit by bit the root is narrowed down: with `r` and `r + 2 ^ k` around it, `k` bits are left. -/
theorem isqrtFrom_eq_sqrt {n : Nat} (k : Nat) {r : Nat} (hlow : r * r ≤ n) (hhigh : n < (r + 2 ^ k) * (r + 2 ^ k)) :
    isqrtFrom n r k = Nat.sqrt n := by
  induction k generalizing r with
  | zero => exact Nat.eq_sqrt.2 ⟨hlow, hhigh⟩
  | succ k ih =>
    rw [isqrtFrom, isqrtBit]
    split
    · rename_i hbit
      exact ih hbit (by rwa [Nat.add_assoc, ← Nat.two_mul, ← Nat.pow_succ'])
    · rename_i hbit
      exact ih hlow (Nat.lt_of_not_le hbit)

theorem isqrt_eq_sqrt (n : Nat) : isqrt n = Nat.sqrt n := by
  refine isqrtFrom_eq_sqrt _ (Nat.zero_le n) ?_
  calc n < 2 ^ (n.log2 + 1) := Nat.lt_log2_self
    _ ≤ 2 ^ (n.log2 / 2 + 1 + (n.log2 / 2 + 1)) := Nat.pow_le_pow_right (by decide) (by omega)
    _ = (0 + 2 ^ (n.log2 / 2 + 1)) * (0 + 2 ^ (n.log2 / 2 + 1)) := by rw [Nat.zero_add, Nat.pow_add]

theorem cellDist_eq (q : Nat) : cellDist q = Nat.sqrt (q * 2 ^ 20) := by
  rw [cellDist, isqrt_eq_sqrt, Nat.shiftLeft_eq]

/-! ## The nearest centres (R243) -/

/-- `k` is the lowest-numbered of the nearest of `n` distances. -/
def IsNearest (q : Nat → Nat) (n k : Nat) : Prop := k < n ∧ (∀ j < n, q k ≤ q j) ∧ ∀ j < k, q k < q j

/-- `second` is the least of `n` distances but the `k`-th, if there is another. -/
def IsSecond (q : Nat → Nat) (n k : Nat) : Option Nat → Prop
  | none => n = 1
  | some t => (∃ l < n, l ≠ k ∧ q l = t) ∧ ∀ j < n, j ≠ k → t ≤ q j

theorem IsNearest.unique {q : Nat → Nat} {n k k' : Nat} (h : IsNearest q n k) (h' : IsNearest q n k') : k = k' := by
  obtain ⟨hk, hle, hlt⟩ := h
  obtain ⟨hk', hle', hlt'⟩ := h'
  rcases Nat.lt_trichotomy k k' with hkk | hkk | hkk
  · exact absurd (hlt' k hkk) (Nat.not_lt.2 (hle k' hk'))
  · exact hkk
  · exact absurd (hlt k' hkk) (Nat.not_lt.2 (hle' k hk))

theorem IsSecond.eq_some {q : Nat → Nat} {n k l : Nat} {second : Option Nat} (h : IsSecond q n k second)
    (hk : k < n) (hl : l < n) (hlk : l ≠ k) (hmin : ∀ j < n, j ≠ k → q l ≤ q j) : second = some (q l) := by
  cases second with
  | none =>
    have hn : n = 1 := h
    omega
  | some t =>
    obtain ⟨⟨l', hl', hlk', rfl⟩, hle⟩ := h
    rw [Nat.le_antisymm (hle l hl hlk) (hmin l' hl' hlk')]

section
variable {q : Nat → Nat} {n k : Nat}

/-- A distance below the nearest becomes the nearest, and the nearest the second. -/
theorem IsNearest.closer (h : IsNearest q n k) (hq : q n < q k) :
    IsNearest q (n + 1) n ∧ IsSecond q (n + 1) n (some (q k)) := by
  obtain ⟨hk, hle, -⟩ := h
  refine ⟨⟨by omega, fun j hj => ?_, fun j hj => hq.trans_le (hle j hj)⟩, ⟨k, by omega, by omega, rfl⟩,
    fun j hj hjn => hle j (by omega)⟩
  rcases Nat.lt_succ_iff_lt_or_eq.1 hj with hj | rfl
  · exact hq.le.trans (hle j hj)
  · exact le_rfl

/-- A distance not below the nearest leaves it, and may be the second. -/
theorem IsNearest.farther {second : Option Nat} (h : IsNearest q n k) (hs : IsSecond q n k second) (hq : q k ≤ q n) :
    IsNearest q (n + 1) k ∧
      IsSecond q (n + 1) k (some (second.elim (q n) (min · (q n)))) := by
  obtain ⟨hk, hle, hlt⟩ := h
  refine ⟨⟨by omega, fun j hj => ?_, hlt⟩, ?_⟩
  · rcases Nat.lt_succ_iff_lt_or_eq.1 hj with hj | rfl
    · exact hle j hj
    · exact hq
  · cases second with
    | none =>
      have hn : n = 1 := hs
      refine ⟨⟨n, by omega, by omega, rfl⟩, fun j hj hjk => ?_⟩
      obtain rfl : j = n := by omega
      exact le_rfl
    | some t =>
      obtain ⟨⟨l, hl, hlk, rfl⟩, hmin⟩ := hs
      refine ⟨?_, fun j hj hjk => ?_⟩
      · rcases le_total (q l) (q n) with hln | hln
        · exact ⟨l, by omega, hlk, (min_eq_left hln).symm⟩
        · exact ⟨n, by omega, by omega, (min_eq_right hln).symm⟩
      · rcases Nat.lt_succ_iff_lt_or_eq.1 hj with hj | rfl
        · exact (min_le_left _ _).trans (hmin j hj hjk)
        · exact min_le_right _ _

end

/-- The search past one centre: it is the nearest so far, or another that may be the second. -/
theorem nearestFrom_cons (xc yc best : Nat) (win c : CellRecord) (second : Option Nat) (cs : List CellRecord) :
    nearestFrom xc yc best win second (c :: cs) =
      if dist2 xc yc c < best then nearestFrom xc yc (dist2 xc yc c) c (some best) cs
      else nearestFrom xc yc best win (some (second.elim (dist2 xc yc c) (min · (dist2 xc yc c)))) cs := by
  cases second <;> rfl

/-- The squared distances of the centres of a list from a pixel's centre (42_generators.md R242). -/
def centreDist (m : Memory) (l xc yc i : Nat) : Nat := dist2 xc yc (cellRecord m l i)

/-- The search over the rest of a list ends with the nearest and the second of the whole list. -/
theorem nearestFrom_spec (m : Memory) (l xc yc r : Nat) {n k : Nat} {second : Option Nat}
    (h : IsNearest (centreDist m l xc yc) n k) (hs : IsSecond (centreDist m l xc yc) n k second) :
    ∃ k' second', IsNearest (centreDist m l xc yc) (n + r) k' ∧ IsSecond (centreDist m l xc yc) (n + r) k' second' ∧
      nearestFrom xc yc (centreDist m l xc yc k) (cellRecord m l k) second (cellRecords m l n r) =
        (centreDist m l xc yc k', cellRecord m l k', second') := by
  induction r generalizing n k second with
  | zero => exact ⟨k, second, h, hs, rfl⟩
  | succ r ih =>
    rw [cellRecords, nearestFrom_cons, ← centreDist, ← Nat.succ_add_eq_add_succ]
    by_cases hq : centreDist m l xc yc n < centreDist m l xc yc k
    · obtain ⟨hnear, hsecond⟩ := h.closer hq
      rw [if_pos hq]
      exact ih hnear hsecond
    · obtain ⟨hnear, hsecond⟩ := h.farther hs (Nat.le_of_not_lt hq)
      rw [if_neg hq]
      exact ih hnear hsecond

/-- A pixel's gradient index and colour are by the lowest-numbered nearest centre `k`, and in outer mode by the
least distance of the others (42_generators.md R243 to R245). -/
theorem cellAt_nearest (m : Memory) (l xc yc : Nat) (amp : Int) (outer : Bool) {n k : Nat}
    (h : IsNearest (centreDist m l xc yc) n k) :
    ∃ second, IsSecond (centreDist m l xc yc) n k second ∧
      cellAt amp outer xc yc (cellRecords m l 0 n) =
        (if outer then
          outerIndex (cellDist (centreDist m l xc yc k)) (cellDist (second.getD (centreDist m l xc yc k)))
        else innerIndex (cellDist (centreDist m l xc yc k)) amp, (cellRecord m l k).color) := by
  cases n with
  | zero =>
    obtain ⟨hk, -⟩ := h
    omega
  | succ n =>
    have hfirst : IsNearest (centreDist m l xc yc) 1 0 :=
      ⟨by decide, fun j hj => by rw [Nat.lt_one_iff.1 hj], fun j hj => absurd hj (Nat.not_lt_zero j)⟩
    obtain ⟨k', second, hnear, hsecond, hsearch⟩ := nearestFrom_spec m l xc yc n hfirst (second := none) rfl
    rw [Nat.add_comm] at hnear hsecond
    obtain rfl := h.unique hnear
    refine ⟨second, hsecond, ?_⟩
    rw [cellRecords, cellAt]
    exact hsearch ▸ rfl

/-! ## The indices (R244, R245) -/

theorem innerIndex_eq (d0 : Nat) (amp : Int) : innerIndex d0 amp = min (max (d0 * amp / 2 ^ 16) 0) (2 ^ 24) := by
  rw [innerIndex, clamp, Int.shiftRight_eq_div_pow]
  rfl

theorem outerIndex_eq (d0 d1 : Nat) :
    outerIndex d0 d1 = if (d0 : Int) + d1 = 0 then 0 else (d0 : Int) * 2 ^ 24 / (d0 + d1) := by
  rw [outerIndex, fdiv, shl, Int.fdiv_eq_ediv_of_nonneg _ (by positivity)]
  norm_cast

section
variable {m : Memory} {l xc yc n k : Nat} (h : IsNearest (centreDist m l xc yc) n k) (amp : Int)
include h

/-- Inner mode: the scaled distance of the nearest centre, and its colour (R244). -/
theorem cellAt_inner :
    cellAt amp false xc yc (cellRecords m l 0 n) =
      (min (max (Nat.sqrt (centreDist m l xc yc k * 2 ^ 20) * amp / 2 ^ 16) 0) (2 ^ 24), (cellRecord m l k).color) := by
  obtain ⟨second, -, hcell⟩ := cellAt_nearest m l xc yc amp false h
  rw [hcell, if_neg Bool.false_ne_true, innerIndex_eq, cellDist_eq]

/-- Outer mode: the share of the nearest centre's distance in its sum with that of the nearest of the others
(R245). -/
theorem cellAt_outer {i : Nat} (hi : i < n) (hik : i ≠ k)
    (hmin : ∀ j < n, j ≠ k → centreDist m l xc yc i ≤ centreDist m l xc yc j) :
    let d0 : Int := Nat.sqrt (centreDist m l xc yc k * 2 ^ 20)
    let d1 : Int := Nat.sqrt (centreDist m l xc yc i * 2 ^ 20)
    cellAt amp true xc yc (cellRecords m l 0 n) =
      (if d0 + d1 = 0 then 0 else d0 * 2 ^ 24 / (d0 + d1), (cellRecord m l k).color) := by
  obtain ⟨second, hsecond, hcell⟩ := cellAt_nearest m l xc yc amp true h
  obtain ⟨hk, -, -⟩ := h
  rw [hcell, if_pos rfl, hsecond.eq_some hk hi hik hmin, Option.getD_some, outerIndex_eq, cellDist_eq, cellDist_eq]

end

/-! ## The command -/

/-- The count and the pointer of CELLS in their ranges pass its checks (42_generators.md R241). -/
theorem cellChecks_pass {k : Snapshot} {outer : Bool} (hlow : (if outer then 2 else 1) ≤ param k 1)
    (hhigh : param k 1 ≤ 256) (haligned : paramU k 0 % 8 = 0) (hfits : paramU k 0 + 16 * param k 1 ≤ 2 ^ 32) :
    firstError (cellChecks k outer) = none := by
  rw [firstError_cellChecks, if_neg (by omega), if_neg (by omega)]

theorem unlessSideEffects_pass {s : State} {es : List Extent} {go : Result} (h : reachesWindow s.cfg es = false) :
    unlessSideEffects s es go = go := by simp [unlessSideEffects, h]

/-- Nothing stands in the way of some of the ranges where nothing does of all. -/
theorem Quiet.mono {s : State} {es fs : List Extent} (h : Quiet s fs) (hsub : ∀ e ∈ es, e ∈ fs) : Quiet s es := by
  obtain ⟨hport, hwin⟩ := h
  exact ⟨hport, List.any_eq_false.2 fun e he => List.any_eq_false.1 hwin e (hsub e he)⟩

/-- The body of CELLS: each texel the colour by its nearest centres. -/
def cellsBody (s : State) (d a : Slot) (outer : Bool) : Memory → Memory :=
  paint (slotTex s.snap d) fun x y m =>
    cellColor s.cfg.gradInset m (slotTex s.snap a) outer
      (cellOf s.snap (slotTex s.snap d) outer (cellRecords s.mem (paramU s.snap 0) 0 (param s.snap 1).toNat) x y)

/-- A legal CELLS completes with its list read and its body done to memory, the scratch storage released. -/
theorem exec_cells {s : State} {d a : Slot} {outer : Bool} (h : Ready (.cells d a outer) s)
    (hparam : firstError (cellChecks s.snap outer) = none) :
    exec (.cells d a outer) s =
      .next (releaseScratch (finish { loadCells s with mem := cellsBody s d a outer s.mem })) := by
  obtain ⟨hport, hwin⟩ : Quiet s [cellList s.snap] := h.quiet.mono (by simp [footprint, listExtents])
  have hslots : Quiet (loadCells s) (slotExtents s.snap [d, a]) :=
    Quiet.mono (s := loadCells s) h.quiet fun e he => List.mem_append_left _ he
  have hread : firstError (listChecks (.cells d a outer) s.snap s.mem s.port) = none := by
    rw [hport]
    exact listReadChecks_none (by simp) _ 0
  have hbody := runTexture_quiet hslots (slotTex s.snap d) (cellsBody s d a outer)
  exact (afterChecks_pass (registerChecks_of_ready h hparam)).trans
    ((unlessSideEffects_pass hwin).trans ((afterChecks_pass hread).trans (congrArg releasing hbody)))

theorem cellColor_inner (g : GradInset) (m : Memory) (a : Tex) (i : Int) (p : Pixel) :
    cellColor g m a false (i, p) = pixMulC (sampleGradient g m a i) p := rfl

theorem cellColor_outer (g : GradInset) (m : Memory) (a : Tex) (i : Int) (p : Pixel) :
    cellColor g m a true (i, p) = sampleGradient g m a i := rfl

theorem cellColor_apart {d a : Tex} (ha : a.sizeOk = true) (hda : d.extent.meets a.extent = false) {m m' : Memory}
    (h : SameOutside d.extent m m') (g : GradInset) (outer : Bool) (c : Int × Pixel) :
    cellColor g m' a outer c = cellColor g m a outer c := by
  simp only [cellColor, sampleGradient_apart ha hda h]

/-- Settles O45: the search finds the nearest centre and the nearest of the others, and the texel is painted by
them. -/
theorem cellsUsesTheNearestCentres : Obligations.CellsUsesTheNearestCentres := by
  intro s d a outer hwf hready hlow hhigh haligned hfits D A centre'
  refine ⟨_, exec_cells hready (cellChecks_pass hlow hhigh haligned hfits),
    ⟨rfl, rfl, paint_sameOutside D _ s.mem⟩, ?_⟩
  intro hapart x y hin q dist k hk hle hlt
  have ha : A.sizeOk = true := (hready.slotOk (by simp [usedSlots])).1
  have htexel : texRead (cellsBody s d a outer s.mem) D x y = _ :=
    paint_texel_apart hwf hin fun m' hm' => cellColor_apart ha hapart hm' _ _ _
  have hnear : IsNearest q (param s.snap 1).toNat k :=
    ⟨by omega, fun j hj => hle j (by omega), hlt⟩
  rw [cellOf] at htexel
  refine ⟨fun hinner => ?innerMode, fun houter l hlk hl hmin => ?outerMode⟩
  case innerMode =>
    subst hinner
    rwa [cellAt_inner hnear, cellColor_inner] at htexel
  case outerMode =>
    subst houter
    rwa [cellAt_outer hnear _ (by omega) hlk fun j hj hjk => hmin j (by omega) hjk,
      cellColor_outer] at htexel

end Sys2Proof.Machine

/-! The walk of a parallelogram's box, and the two commands that draw by it, GLOWRECT and PASTE
(42_generators.md R248 to R252, 44_combiners.md R335, R336). -/

namespace Sys2Proof.Machine

/-! ## One turn of a loop -/

/-- What holds after turn `i` of a loop, where the turns before keep what that turn needs and the turns after
keep what it gives. -/
theorem loop_visits {α : Type} {P Q : α → Prop} {f : Nat → α → α} {n i : Nat} {a : α} (hi : i < n) (h0 : P a)
    (hbefore : ∀ j < i, ∀ b, P b → P (f j b)) (hat : ∀ b, P b → Q (f i b))
    (hafter : ∀ j < n, i < j → ∀ b, Q b → Q (f j b)) : Q (loop n f a) := by
  induction n with
  | zero => omega
  | succ n ih =>
    rcases Nat.lt_succ_iff_lt_or_eq.1 hi with hlt | rfl
    · exact hafter n (by omega) hlt _ (ih hlt fun j hj => hafter j (by omega))
    · exact hat _ (loop_keeps i h0 hbefore)

/-! ## The box (R248) -/

theorem boxLow_eq (shift : Nat) (lo : Int) : boxLow shift lo = corner shift lo := by
  rw [boxLow, shl, Int.shiftRight_eq_div_pow]
  rfl

theorem ceil16_eq (v : Int) : ceil16 v = -(-v / 2 ^ 16) := by
  rw [ceil16, Int.shiftRight_eq_div_pow]
  rfl

theorem boxHigh_eq (shift : Nat) (hi : Int) :
    boxHigh shift hi = min (2 ^ shift - 1) (-(-(hi * 2 ^ shift) / 2 ^ 16)) := by
  rw [boxHigh, ceil16_eq, shl]

/-- The pixels of an axis between the box's first and its last are those that lie in it. -/
theorem inBox_iff {shift : Nat} {lo hi : Int} {x : Nat} (hx : x < 2 ^ shift) :
    InBox shift lo hi x ↔ boxLow shift lo ≤ x ∧ (x : Int) ≤ boxHigh shift hi := by
  have hx' : (x : Int) < 2 ^ shift := by exact_mod_cast hx
  rw [InBox, boxLow_eq, corner, boxHigh_eq]
  omega

/-- A pixel that the walk of the box reaches lies in it. -/
theorem inBox_of_box {shift : Nat} {lo hi : Int} {i : Nat} (h : i < (boxHigh shift hi - boxLow shift lo + 1).toNat) :
    InBox shift lo hi ((boxLow shift lo).toNat + i) := by
  have hlow : 0 ≤ boxLow shift lo := le_max_left _ _
  rw [inBox_iff (box_in_tex h)]
  omega

/-- A pixel in the box is reached by the walk of the box, which then is not empty. -/
theorem box_index {shift : Nat} {lo hi : Int} {x : Nat} (hx : x < 2 ^ shift) (h : InBox shift lo hi x) :
    boxLow shift lo ≤ boxHigh shift hi ∧
      ∃ i < (boxHigh shift hi - boxLow shift lo + 1).toNat, (boxLow shift lo).toNat + i = x := by
  obtain ⟨hlow, hhigh⟩ := (inBox_iff hx).1 h
  exact ⟨by omega, x - (boxLow shift lo).toNat, by omega, by omega⟩

/-! ## The walk (R249) -/

/-- A pixel of the destination that the walk visits: it lies in the box, and the transform is not skipped. -/
def Visited (k : Snapshot) (d : Tex) (b : Bounds) (x y : Nat) : Prop :=
  InBox d.sx b.lox b.hix x ∧ InBox d.sy b.loy b.hiy y ∧ Draws k d

theorem skips_eq_false (k : Snapshot) (d : Tex) : skips k d = false ↔ Draws k d := by
  rw [skips, decide_eq_false_iff_not, not_lt]
  rfl

theorem skips_eq_true (k : Snapshot) (d : Tex) : skips k d = true ↔ ¬ Draws k d := by
  rw [← skips_eq_false, Bool.not_eq_false]

/-- The coordinate that the walk gives pixel (x, y) is the one the rules give. -/
theorem startU_add_steps (k : Snapshot) (d : Tex) (lox loy : Int) (x y : Nat) :
    startU k d (boxLow d.sx lox) (boxLow d.sy loy) + (y - boxLow d.sy loy) * stepUY k d
      + (x - boxLow d.sx lox) * stepUX k d = walkU k d lox loy x y := by
  rw [boxLow_eq, boxLow_eq]
  rfl

theorem startV_add_steps (k : Snapshot) (d : Tex) (lox loy : Int) (x y : Nat) :
    startV k d (boxLow d.sx lox) (boxLow d.sy loy) + (y - boxLow d.sy loy) * stepVY k d
      + (x - boxLow d.sx lox) * stepVX k d = walkV k d lox loy x y := by
  rw [boxLow_eq, boxLow_eq]
  rfl

theorem boxLow_add_sub (shift : Nat) (lo : Int) (i : Nat) :
    (((boxLow shift lo).toNat + i : Nat) : Int) - boxLow shift lo = i := by
  have hnonneg : 0 ≤ boxLow shift lo := le_max_left _ _
  omega

section
variable {α : Type} {P Q : α → Prop} {k : Snapshot} {d : Tex} {b : Bounds} {f : Nat → Nat → Int → Int → α → α} {a : α}
  {x y : Nat}

/-- The walk of a box that is not empty, row by row, each pixel at its coordinate. -/
theorem overBox_eq (hd : Draws k d) (hbx : boxLow d.sx b.lox ≤ boxHigh d.sx b.hix)
    (hby : boxLow d.sy b.loy ≤ boxHigh d.sy b.hiy) :
    overBox k d b f a =
      loop (boxHigh d.sy b.hiy - boxLow d.sy b.loy + 1).toNat (fun j c =>
        loop (boxHigh d.sx b.hix - boxLow d.sx b.lox + 1).toNat (fun i c =>
          let x := (boxLow d.sx b.lox).toNat + i
          let y := (boxLow d.sy b.loy).toNat + j
          f x y (walkU k d b.lox b.loy x y) (walkV k d b.lox b.loy x y) c) c) a := by
  have hempty : ¬ (boxHigh d.sx b.hix < boxLow d.sx b.lox ∨ boxHigh d.sy b.hiy < boxLow d.sy b.loy) := by omega
  simp only [overBox, if_neg hempty, (skips_eq_false k d).2 hd, Bool.false_eq_true, if_false, ← startU_add_steps,
    ← startV_add_steps, boxLow_add_sub]

/-- What the visits of the walk keep holds after it. -/
theorem overBox_keeps_visited (h0 : P a)
    (hs : ∀ x y c, InTex d x y → Visited k d b x y → P c →
      P (f x y (walkU k d b.lox b.loy x y) (walkV k d b.lox b.loy x y) c)) : P (overBox k d b f a) := by
  by_cases hd : Draws k d
  · by_cases hbox : boxLow d.sx b.lox ≤ boxHigh d.sx b.hix ∧ boxLow d.sy b.loy ≤ boxHigh d.sy b.hiy
    · obtain ⟨hbx, hby⟩ := hbox
      rw [overBox_eq hd hbx hby]
      exact loop_keeps _ h0 fun j hj c hc => loop_keeps _ hc fun i hi c hc =>
        hs _ _ c ⟨box_in_tex hi, box_in_tex hj⟩ ⟨inBox_of_box hi, inBox_of_box hj, hd⟩ hc
    · have hempty : boxHigh d.sx b.hix < boxLow d.sx b.lox ∨ boxHigh d.sy b.hiy < boxLow d.sy b.loy := by omega
      simpa only [overBox, if_pos hempty] using h0
  · simpa only [overBox, (skips_eq_true k d).2 hd, if_true, ite_self] using h0

/-- What holds after a walk that visits (x, y): the visits of other pixels keep what that visit needs, and what
it gives. -/
theorem overBox_visits (hxy : InTex d x y) (hv : Visited k d b x y) (h0 : P a)
    (hat : ∀ c, P c → Q (f x y (walkU k d b.lox b.loy x y) (walkV k d b.lox b.loy x y) c))
    (hbefore : ∀ x' y' u v c, InTex d x' y' → (x', y') ≠ (x, y) → P c → P (f x' y' u v c))
    (hafter : ∀ x' y' u v c, InTex d x' y' → (x', y') ≠ (x, y) → Q c → Q (f x' y' u v c)) :
    Q (overBox k d b f a) := by
  obtain ⟨hx, hy, hd⟩ := hv
  obtain ⟨hbx, i, hi, rfl⟩ := box_index hxy.1 hx
  obtain ⟨hby, j, hj, rfl⟩ := box_index hxy.2 hy
  have hne (i' j' : Nat) (h : i' ≠ i ∨ j' ≠ j) : ((boxLow d.sx b.lox).toNat + i', (boxLow d.sy b.loy).toNat + j') ≠
      ((boxLow d.sx b.lox).toNat + i, (boxLow d.sy b.loy).toNat + j) := by
    rw [ne_eq, Prod.mk.injEq]
    omega
  rw [overBox_eq hd hbx hby]
  refine loop_visits (P := P) hj h0 (fun j' hj' c hc => ?above) (fun c hc => ?row) fun j' hj' hlt c hc => ?below
  case above =>
    exact loop_keeps _ hc fun i' hi' c hc =>
      hbefore _ _ _ _ c ⟨box_in_tex hi', box_in_tex (hj'.trans hj)⟩ (hne i' j' (.inr hj'.ne)) hc
  case row =>
    exact loop_visits (P := P) hi hc
      (fun i' hi' c hc => hbefore _ _ _ _ c ⟨box_in_tex (hi'.trans hi), hxy.2⟩ (hne i' j (.inl hi'.ne)) hc) hat
      fun i' hi' hlt c hc => hafter _ _ _ _ c ⟨box_in_tex hi', hxy.2⟩ (hne i' j (.inl hlt.ne')) hc
  case below =>
    exact loop_keeps _ hc fun i' hi' c hc =>
      hafter _ _ _ _ c ⟨box_in_tex hi', box_in_tex hj'⟩ (hne i' j' (.inr hlt.ne')) hc

end

/-! ## Writing by the walk -/

section
variable {k : Snapshot} {d : Tex} {b : Bounds} {f : Nat → Nat → Int → Int → Memory → Option Pixel} {m : Memory}
  {x y : Nat}

/-- A texel that the walk does not visit is as before. -/
theorem walkBox_texel_missed (hxy : InTex d x y) (hv : ¬ Visited k d b x y) :
    texRead (walkBox k d b f m) d x y = texRead m d x y := by
  refine overBox_keeps_visited (P := fun m' => texRead m' d x y = texRead m d x y) rfl
    fun x' y' m' hin hvisited hm' => ?_
  have hne : (x', y') ≠ (x, y) := by
    rintro ⟨⟩
    exact hv hvisited
  split
  · exact (texRead_texWrite_other hin hxy hne _).trans hm'
  · exact hm'

/-- A texel that the walk visits holds what `f` answers, or is as before where it answers none, `f` reading of
memory no more than that texel and what lies apart from the destination. -/
theorem walkBox_texel_visited (hm : m.wf) (hxy : InTex d x y) (hv : Visited k d b x y) {o : Option Pixel}
    (hf : ∀ m', SameOutside d.extent m m' → texRead m' d x y = texRead m d x y →
      f x y (walkU k d b.lox b.loy x y) (walkV k d b.lox b.loy x y) m' = o) :
    texRead (walkBox k d b f m) d x y = o.getD (texRead m d x y) := by
  refine overBox_visits (P := fun m' => m'.wf ∧ SameOutside d.extent m m' ∧ texRead m' d x y = texRead m d x y)
    (Q := fun m' => texRead m' d x y = o.getD (texRead m d x y)) hxy hv ⟨hm, .refl _ _, rfl⟩ ?visit ?before ?after
  case visit =>
    rintro m' ⟨hwf, hout, hsame⟩
    rw [hf m' hout hsame]
    cases o with
    | none => exact hsame
    | some p => exact texRead_texWrite_same hwf d x y p
  case before =>
    rintro x' y' u v m' hin hne ⟨hwf, hout, hsame⟩
    split
    · exact ⟨texWrite_wf hwf _ _ _ _, hout.trans (texWrite_sameOutside hin _ _),
        (texRead_texWrite_other hin hxy hne _).trans hsame⟩
    · exact ⟨hwf, hout, hsame⟩
  case after =>
    intro x' y' u v m' hin hne hm'
    split
    · exact (texRead_texWrite_other hin hxy hne _).trans hm'
    · exact hm'

end

end Sys2Proof.Machine

/-! GLOWRECT and PASTE: the background copied, then each drawn pixel mixed over it (42_generators.md R250 to R252,
44_combiners.md R335, R336). -/

namespace Sys2Proof.Machine

/-! ## Drawing over a background -/

/-- A copy from the destination itself, or from a texture apart from it, holds the source's texels. -/
theorem copyTex_texel_apartOrSame {m : Memory} (hm : m.wf) {d a : Tex} (hc : d.compatible a = true)
    (hda : a = d ∨ d.extent.meets a.extent = false) {x y : Nat} (hxy : InTex d x y) :
    texRead (copyTex d a m) d x y = texRead m a x y := by
  rcases hda with rfl | hapart
  · exact pixelAt_congr fun b _ _ => copyTex_self hm a b
  · exact copyTex_texel hm hc hapart hxy

section
variable {k : Snapshot} {d a : Tex} {b : Bounds} {inside : Int → Int → Bool} {mix : Pixel → Pixel → Pixel}
  {sample : Memory → Int → Int → Pixel} {m : Memory} {x y : Nat}

/-- The background copied and then drawn over by a walk: a texel that the walk visits inside the drawn shape holds
the mix of the background with the sample at its coordinate, every other texel the background. -/
theorem drawOver_texel (hm : m.wf) (hc : d.compatible a = true) (hda : a = d ∨ d.extent.meets a.extent = false)
    (hsample : ∀ m' u v, SameOutside d.extent m m' → sample m' u v = sample m u v) (hxy : InTex d x y) :
    let u := walkU k d b.lox b.loy x y
    let v := walkV k d b.lox b.loy x y
    let drawn := walkBox k d b (fun x y u v m =>
      if inside u v then some (mix (texRead m d x y) (sample m u v)) else none) (copyTex d a m)
    (Visited k d b x y ∧ inside u v = true → texRead drawn d x y = mix (texRead m a x y) (sample m u v)) ∧
    (¬ (Visited k d b x y ∧ inside u v = true) → texRead drawn d x y = texRead m a x y) := by
  intro u v drawn
  have hback : texRead (copyTex d a m) d x y = texRead m a x y := copyTex_texel_apartOrSame hm hc hda hxy
  have hcopy : SameOutside d.extent m (copyTex d a m) := copyTex_sameOutside d a m
  have hvisited (hv : Visited k d b x y) : texRead drawn d x y =
      (if inside u v then some (mix (texRead m a x y) (sample m u v)) else none).getD (texRead m a x y) := by
    rw [← hback]
    refine walkBox_texel_visited ((copyTex_written d a m).wf hm) hxy hv fun m' hout hsame => ?_
    rw [hsame, hsample m' _ _ (hcopy.trans hout)]
  by_cases hv : Visited k d b x y
  · have htexel := hvisited hv
    refine ⟨fun ⟨_, hin⟩ => ?_, fun hout => ?_⟩
    · rwa [if_pos hin] at htexel
    · rwa [if_neg fun hin => hout ⟨hv, hin⟩] at htexel
  · exact ⟨fun ⟨h, _⟩ => absurd h hv, fun _ => (walkBox_texel_missed hxy hv).trans hback⟩

end

/-! ## GLOWRECT -/

theorem axisGlow_eq (u rect : Int) : axisGlow u (clamp rect 0 65536) = glowOnAxis rect u := by
  have hle : clamp rect 0 65536 ≤ 65536 := min_le_right _ _
  change _ = if clamp rect 0 65536 = 65536 then 0
    else max (magnitude u - clamp rect 0 65536) 0 * 2 ^ 16 / (65536 - clamp rect 0 65536)
  rw [axisGlow, fdiv, Int.fdiv_eq_ediv_of_nonneg _ (by omega)]
  rfl

theorem glowDist_eq (k : Snapshot) (u v : Int) : glowDist k u v = glowDistance k u v := by
  rw [glowDist, axisGlow_eq, axisGlow_eq, Int.shiftRight_eq_div_pow]
  rfl

theorem absInt_lt {u r : Int} : absInt u < r ↔ -r < u ∧ u < r := by
  rw [absInt]
  omega

theorem glowInside_iff (k : Snapshot) (u v : Int) :
    glowInside k u v = true ↔
      -65536 < u ∧ u < 65536 ∧ -65536 < v ∧ v < 65536 ∧ glowDistance k u v < 65536 := by
  rw [glowInside, decide_eq_true_iff, absInt_lt, absInt_lt, glowDist_eq, and_assoc, and_assoc]

/-- A legal GLOWRECT completes with its body done to memory. -/
theorem exec_glowrect {s : State} {d a b : Slot} (h : Ready (.glowrect d a b) s) :
    exec (.glowrect d a b) s = .next (finish { s with
      mem := glowBody s.cfg.gradInset s.snap (slotTex s.snap d) (slotTex s.snap a) (slotTex s.snap b) s.mem }) :=
  runTexture_completes h rfl rfl

/-- Settles O46: the walk of the glow box, drawing over the copied background. -/
theorem glowrectCompositesOverTheBackground : Obligations.GlowrectCompositesOverTheBackground := by
  intro s d a b hwf hready D A k lox hix loy hiy
  have hc : D.compatible A = true := hready.sameSize rfl List.mem_cons_self
  obtain ⟨hb, -⟩ : SlotOk s.snap b := hready.slotOk (by simp [usedSlots])
  refine ⟨_, exec_glowrect hready, ⟨rfl, rfl, (glowBody_written ..).sameOutside⟩, ?_⟩
  intro hda hdb x y hxy u v drawn
  have hdrawn : drawn ↔ Visited k D (glowBounds k) x y ∧ glowInside k u v = true := by
    rw [glowInside_iff, Visited, and_assoc, and_assoc]
    rfl
  have htexel := drawOver_texel (k := k) (b := glowBounds k) (inside := glowInside k) (mix := pixOver)
    (sample := fun m u v => sampleGradient s.cfg.gradInset m (slotTex k b) (shl (glowDist k u v) 8)) hwf hc hda
    (fun m' u v hm' => sampleGradient_apart hb hdb hm' _ _) hxy
  rw [hdrawn, ← glowDist_eq]
  exact htexel

/-! ## PASTE -/

theorem pasteInside_iff (u v : Int) : pasteInside u v = true ↔ 0 ≤ u ∧ u < 65536 ∧ 0 ≤ v ∧ v < 65536 :=
  decide_eq_true_iff

/-- A legal PASTE completes with its body done to memory. -/
theorem exec_paste {s : State} {d a b : Slot} {mode : Mode} {op : Blend} (h : Ready (.paste d a b mode op) s) :
    exec (.paste d a b mode op) s = .next (finish { s with
      mem := pasteBody s.snap (slotTex s.snap d) (slotTex s.snap a) (slotTex s.snap b) mode op s.mem }) :=
  runTexture_completes h rfl rfl

/-- Settles O56: the walk of the paste box, drawing over the copied background. -/
theorem pasteBlendsInsideTheParallelogram : Obligations.PasteBlendsInsideTheParallelogram := by
  intro s d a b mode op hwf hready D A k lox hix loy hiy
  have hc : D.compatible A = true := hready.sameSize rfl List.mem_cons_self
  obtain ⟨hb, -⟩ : SlotOk s.snap b := hready.slotOk (by simp [usedSlots])
  refine ⟨_, exec_paste hready, ⟨rfl, rfl, (pasteBody_written ..).sameOutside⟩, ?_⟩
  intro hda hdb x y hxy u v drawn
  have hdrawn : drawn ↔ Visited k D (pasteBounds k) x y ∧ pasteInside u v = true := by
    rw [pasteInside_iff, Visited, and_assoc, and_assoc]
    rfl
  have htexel := drawOver_texel (k := k) (b := pasteBounds k) (inside := pasteInside) (mix := blend op)
    (sample := fun m u v => sampleFiltered m (slotTex k b) (shl u 8) (shl v 8) mode) hwf hc hda
    (fun m' u v hm' => sampleFiltered_apart hb hdb hm' _ _ _) hxy
  rw [hdrawn]
  exact htexel

end Sys2Proof.Machine

/-! Paintings from a source that is the destination or apart from it: each texel is read before it is written
(20_memory.md R105, 70_reset_and_hazards.md R463). -/

namespace Sys2Proof.Machine

/-- The texels of compatible textures have the same coordinates (41_sampler.md R192). -/
theorem inTex_of_compatible {d a : Tex} (hc : d.compatible a = true) {x y : Nat} (h : InTex d x y) : InTex a x y := by
  obtain ⟨hsx, hsy⟩ := compatible_iff.1 hc
  simpa only [InTex, Tex.w, Tex.h, hsx, hsy] using h

/-- Writing the texels before (x, y) changes nothing outside the texture. -/
theorem SameBut.sameOutside {d : Tex} {x y : Nat} {m m' : Memory} (h : SameBut d x y m m') (hxy : InTex d x y) :
    SameOutside d.extent m m' := by
  intro b hb
  refine h b fun ⟨hlow, hhigh⟩ => hb ⟨hlow, ?_⟩
  obtain ⟨-, hend⟩ := addr_in_extent d hxy
  simp only [Tex.extent]
  omega

/-- Writing the texels before (x, y) leaves the texel (x, y) of the texture itself, and of one apart from it. -/
theorem SameBut.texRead {d a : Tex} {x y : Nat} {m m' : Memory} (h : SameBut d x y m m') (hxy : InTex d x y)
    (hc : d.compatible a = true) (hda : a = d ∨ d.extent.meets a.extent = false) :
    texRead m' a x y = texRead m a x y := by
  rcases hda with rfl | hapart
  · exact pixelAt_congr fun b hlow _ => h b fun ⟨_, hb⟩ => absurd hb (Nat.not_lt.2 hlow)
  · exact texRead_apart hapart (h.sameOutside hxy) (inTex_of_compatible hc hxy)

/-- A texel painted by `g` of the source's texel at its place holds `g` of the texel as it was, where `g` reads
nothing of the destination otherwise. -/
theorem paint_texel_apartOrSame {m : Memory} (hm : m.wf) {d a : Tex} (hc : d.compatible a = true)
    (hda : a = d ∨ d.extent.meets a.extent = false) {g : Nat → Nat → Memory → Pixel → Pixel} {x y : Nat}
    (hxy : InTex d x y) (hg : ∀ m' p, SameOutside d.extent m m' → g x y m' p = g x y m p) :
    texRead (paint d (fun x y m => g x y m (texRead m a x y)) m) d x y = g x y m (texRead m a x y) := by
  obtain ⟨m', -, hsame, htexel⟩ := paint_texel hm d (fun x y m => g x y m (texRead m a x y)) hxy
  rw [htexel, hsame.texRead hxy hc hda, hg m' _ (hsame.sameOutside hxy)]

end Sys2Proof.Machine

/-! COLOR.MATRIX and COORD.MATRIX (43_filters.md R279 to R285). -/

namespace Sys2Proof.Machine

/-- Coefficients in range pass the checks of the matrix (43_filters.md R279). -/
theorem coefChecks_pass {k : Snapshot} (h : CoefsOk k) : firstError (coefChecks k 16 16) = none :=
  (coefChecks_none 16 16).2 fun j hlow hhigh => coefOk_true.2 (h j hlow hhigh)

/-! ## COLOR.MATRIX -/

/-- Saturation clamps to the range of a channel (40_pixel.md R160). -/
theorem sat_toNat (v : Int) : ((sat v).toNat : Int) = min (max v 0) 65535 :=
  chan_toNat (v := clamp v 0 65535) (by rw [clamp]; omega) (by rw [clamp]; omega)

/-- A value clamped to a channel value is a channel value. -/
theorem chan_clamp_toNat (v : Int) {top : Int} (h0 : 0 ≤ top) (h1 : top ≤ 65535) :
    ((chan (clamp v 0 top)).toNat : Int) = min (max v 0) top :=
  chan_toNat (v := clamp v 0 top) (by rw [clamp]; omega) (by rw [clamp]; omega)

/-- The sum of a row of the matrix is rounded half up (43_filters.md R280). -/
theorem mixChannel_eq (k : Snapshot) (p : Pixel) (c : Nat) :
    mixChannel k p c =
      (param k (16 + 4 * c) * p.r.toNat + param k (17 + 4 * c) * p.g.toNat + param k (18 + 4 * c) * p.b.toNat
        + param k (19 + 4 * c) * p.a.toNat + 32768) / 65536 := by
  have hindex (j : Nat) : coef k c j = param k (16 + j + 4 * c) := congrArg (param k) (by omega)
  rw [mixChannel, hindex, hindex, hindex, hindex, Int.shiftRight_eq_div_pow]
  rfl

/-- The mixed pixel's channels are the rows' sums, clamped, with PREMULT to the new alpha (43_filters.md R280). -/
theorem mixPixel_toNat (k : Snapshot) (premult : Bool) (p : Pixel) :
    let q := mixPixel k premult p
    let top : Int := if premult then q.a.toNat else 65535
    (q.r.toNat : Int) = min (max (mixChannel k p 0) 0) top ∧ (q.g.toNat : Int) = min (max (mixChannel k p 1) 0) top ∧
    (q.b.toNat : Int) = min (max (mixChannel k p 2) 0) top ∧
    (q.a.toNat : Int) = min (max (mixChannel k p 3) 0) 65535 := by
  cases premult with
  | false => exact ⟨sat_toNat _, sat_toNat _, sat_toNat _, sat_toNat _⟩
  | true =>
    have halpha : ((mixPixel k true p).a.toNat : Int) = clamp (mixChannel k p 3) 0 65535 := sat_toNat _
    have h0 : 0 ≤ clamp (mixChannel k p 3) 0 65535 := by rw [clamp]; omega
    have h1 : clamp (mixChannel k p 3) 0 65535 ≤ 65535 := min_le_right _ _
    simp only [if_true, halpha]
    exact ⟨chan_clamp_toNat _ h0 h1, chan_clamp_toNat _ h0 h1, chan_clamp_toNat _ h0 h1, rfl⟩

/-- A legal COLOR.MATRIX completes with each texel the mixed texel of its source. -/
theorem exec_colorMatrix {s : State} {d a : Slot} {premult : Bool} (h : Ready (.colorMatrix d a premult) s)
    (hcoefs : CoefsOk s.snap) :
    exec (.colorMatrix d a premult) s = .next (finish { s with
      mem := paint (slotTex s.snap d) (fun x y m => mixPixel s.snap premult (texRead m (slotTex s.snap a) x y)) s.mem }) :=
  runTexture_completes h (coefChecks_pass hcoefs) rfl

/-- Settles O47: each texel is mixed from its source as it was, row by row. -/
theorem colorMatrixMixesChannels : Obligations.ColorMatrixMixesChannels := by
  intro s d a premult hwf hready hcoefs D
  refine ⟨_, exec_colorMatrix hready hcoefs, ⟨rfl, rfl, paint_sameOutside D _ s.mem⟩, ?_⟩
  intro hda x y hxy p q row top
  have hq : q = mixPixel s.snap premult p :=
    paint_texel_apartOrSame hwf (hready.sameSize rfl List.mem_cons_self) hda
      (g := fun _ _ _ p => mixPixel s.snap premult p) hxy fun _ _ _ => rfl
  have hmix := mixPixel_toNat s.snap premult p
  rw [← hq, mixChannel_eq, mixChannel_eq, mixChannel_eq, mixChannel_eq] at hmix
  exact hmix

/-! ## COORD.MATRIX -/

/-- Wrapping before a further step or once after it gives the same (00_scope.md R11). -/
theorem wrap32_wrap32_add (v w : Int) : wrap32 (wrap32 v + w) = wrap32 (v + w) := Int.bmod_add_bmod

theorem coordStepX_eq (k : Snapshot) (d : Tex) (r : Nat) :
    coordStepX k d r = param k (16 + 4 * r) * 2 ^ (24 - d.sx) / 2 ^ 16 := Int.shiftRight_eq_div_pow _ _

theorem coordStepY_eq (k : Snapshot) (d : Tex) (r : Nat) :
    coordStepY k d r = param k (17 + 4 * r) * 2 ^ (24 - d.sy) / 2 ^ 16 := by
  rw [coordStepY, coef, shl, Int.shiftRight_eq_div_pow, show 16 + 4 * r + 1 = 17 + 4 * r by omega]
  rfl

/-- The walk starts at the image of the first centre (43_filters.md R285). -/
theorem coordAt_start (k : Snapshot) (d : Tex) (r : Nat) :
    coordAt k d r 0 0 = wrap32 (param k (19 + 4 * r) * 2 ^ 8 + (coordStepX k d r + coordStepY k d r) / 2) := by
  rw [coordAt, coordStart, add_assoc, wrap32_wrap32_add, coef, shl, Int.shiftRight_eq_div_pow,
    show 16 + 4 * r + 3 = 19 + 4 * r by omega]
  simp

/-- A step down adds the step along y to the first accumulator of the row above, with wrap32. -/
theorem coordAt_down (k : Snapshot) (d : Tex) (r y : Nat) :
    coordAt k d r 0 (y + 1) = wrap32 (coordAt k d r 0 y + coordStepY k d r) := by
  rw [coordAt, coordAt, wrap32_wrap32_add]
  congr 1
  push_cast
  ring

/-- A step right adds the step along x, with wrap32. -/
theorem coordAt_right (k : Snapshot) (d : Tex) (r x y : Nat) :
    coordAt k d r (x + 1) y = wrap32 (coordAt k d r x y + coordStepX k d r) := by
  rw [coordAt, coordAt, wrap32_wrap32_add]
  congr 1
  push_cast
  ring

/-- A legal COORD.MATRIX completes with each texel the sample at its coordinates. -/
theorem exec_coordMatrix {s : State} {d a : Slot} {mode : Mode} (h : Ready (.coordMatrix d a mode) s)
    (hcoefs : CoefsOk s.snap) :
    exec (.coordMatrix d a mode) s = .next (finish { s with
      mem := paint (slotTex s.snap d) (fun x y m =>
        sampleFiltered m (slotTex s.snap a) (coordAt s.snap (slotTex s.snap d) 0 x y)
          (coordAt s.snap (slotTex s.snap d) 1 x y) mode) s.mem }) :=
  runTexture_completes h (coefChecks_pass hcoefs) rfl

/-- Settles O48: the closed form of the walk takes the walk's steps, and the samples see the source as it was. -/
theorem coordMatrixWalksTheSource : Obligations.CoordMatrixWalksTheSource := by
  intro s d a mode hwf hready hcoefs D du dv
  have hdu (r : Nat) : coordStepX s.snap D r = du r := coordStepX_eq s.snap D r
  have hdv (r : Nat) : coordStepY s.snap D r = dv r := coordStepY_eq s.snap D r
  refine ⟨_, coordAt s.snap D, exec_coordMatrix hready hcoefs, ⟨rfl, rfl, paint_sameOutside D _ s.mem⟩,
    fun r _ => ⟨?start, fun y => ?down, fun x y => ?right⟩, fun hapart x y hxy => ?texel⟩
  case start => rw [coordAt_start, hdu, hdv]
  case down => rw [coordAt_down, hdv]
  case right => rw [coordAt_right, hdu]
  case texel =>
    have ha : (slotTex s.snap a).sizeOk = true := (hready.slotOk (by simp [usedSlots])).1
    exact paint_texel_apart hwf hxy fun m' hm' => sampleFiltered_apart ha hapart hm' _ _ _

end Sys2Proof.Machine

/-! COLOR.REMAP and COORD.REMAP (43_filters.md R289 to R295). -/

namespace Sys2Proof.Machine

/-! ## COLOR.REMAP -/

theorem gIdx_eq (c : U16) : gIdx c = (c.toNat : Int) * 2 ^ 8 + ((c.toNat : Int) + 128) / 2 ^ 8 := by
  rw [gIdx, shl, Int.shiftRight_eq_div_pow]
  rfl

/-- Un-premultiplication stays in the range of a channel: the colour counts up to its alpha only (43_filters.md
R289). -/
theorem unpre_toNat (c : U16) {a : U16} (ha : a ≠ 0) :
    ((unpre c a).toNat : Int) = (min (c.toNat : Int) a.toNat * 65535 + (a.toNat : Int) / 2) / a.toNat := by
  have hpos : (0 : Int) < a.toNat := by
    have : a.toNat ≠ 0 := fun h => ha (BitVec.eq_of_toNat_eq h)
    omega
  have hvalue : fdiv (min (ci c) (ci a) * 65535 + (ci a >>> (1 : Nat))) (ci a) =
      (min (c.toNat : Int) a.toNat * 65535 + (a.toNat : Int) / 2) / a.toNat := by
    rw [fdiv, ci, ci, Int.fdiv_eq_ediv_of_nonneg _ hpos.le, Int.shiftRight_eq_div_pow]
    rfl
  rw [unpre, hvalue]
  apply chan_toNat
  · exact Int.ediv_nonneg (by omega) hpos.le
  · exact Int.le_of_lt_add_one (Int.ediv_lt_of_lt_mul hpos (by omega))

/-- The channel a map is read at: as it is in an opaque pixel, else un-premultiplied (43_filters.md R290). -/
theorem flatChannel_toNat (c : U16) {a : U16} (ha : a ≠ 0) :
    ((flatChannel c a).toNat : Int) =
      if (a.toNat : Int) = 65535 then (c.toNat : Int)
      else (min (c.toNat : Int) a.toNat * 65535 + (a.toNat : Int) / 2) / a.toNat := by
  have hopaque : a = 65535 ↔ (a.toNat : Int) = 65535 := by rw [← BitVec.toNat_inj]; exact Int.ofNat_inj.symm
  rw [flatChannel]
  simp only [hopaque]
  split
  · rfl
  · exact unpre_toNat c ha

theorem sumChannel_toNat (f : Pixel → U16) (qr qg qb : Pixel) :
    (sumChannel f qr qg qb).toNat = min ((f qr).toNat + (f qg).toNat + (f qb).toNat) 65535 := by
  have hsum : ((sumChannel f qr qg qb).toNat : Int) = min (ci (f qr) + ci (f qg) + ci (f qb)) 65535 :=
    chan_toNat (by simp only [ci]; omega) (min_le_right _ _)
  simp only [ci] at hsum
  omega

section
variable (g : GradInset) (m : Memory) (b c e : Tex) (p : Pixel)

theorem remapPixel_transparent (h : p.a = 0) : remapPixel g m b c e p = p := if_pos h

theorem mapColor_alpha : (mapColor g m b c e p).a = p.a := by simp only [mapColor]

theorem remapPixel_alpha : (remapPixel g m b c e p).a = p.a := by
  by_cases h : p.a = 0
  · rw [remapPixel_transparent g m b c e p h]
  · rw [remapPixel, if_neg h]
    split
    · exact mapColor_alpha g m b c e p
    · rfl

/-- A pixel that is not transparent has the maps' sums in its colours, multiplied by its alpha again unless it is
opaque (43_filters.md R290). -/
theorem remapPixel_color (h : p.a ≠ 0) :
    ∀ ch ∈ colors, (ch (remapPixel g m b c e p)).toNat =
      if p.a = 65535 then (ch (mapColor g m b c e p)).toNat
      else roundMul (ch (mapColor g m b c e p)).toNat p.a.toNat := by
  rw [remapPixel, if_neg h]
  by_cases hopaque : p.a = 65535
  · simp only [if_pos hopaque, implies_true]
  · simp only [if_neg hopaque]
    simp [colors, mulIntens_toNat]

theorem mapColor_color :
    ∀ ch ∈ colors, ch (mapColor g m b c e p) =
      sumChannel ch (sampleGradient g m b (gIdx (flatChannel p.r p.a)))
        (sampleGradient g m c (gIdx (flatChannel p.g p.a))) (sampleGradient g m e (gIdx (flatChannel p.b p.a))) := by
  simp [colors, mapColor]

end

/-- The remapped pixel sees nothing of a destination apart from the three maps. -/
theorem remapPixel_apart {g : GradInset} {m m' : Memory} {d b c e : Tex} (hm : SameOutside d.extent m m')
    (hmaps : ∀ t ∈ [b, c, e], t.sizeOk = true ∧ d.extent.meets t.extent = false) (p : Pixel) :
    remapPixel g m' b c e p = remapPixel g m b c e p := by
  simp only [List.forall_mem_cons] at hmaps
  obtain ⟨⟨hb, hdb⟩, ⟨hc, hdc⟩, ⟨he, hde⟩, -⟩ := hmaps
  simp only [remapPixel, mapColor, sampleGradient_apart hb hdb hm, sampleGradient_apart hc hdc hm,
    sampleGradient_apart he hde hm]

/-- A legal COLOR.REMAP completes with each texel the remapped texel of its source. -/
theorem exec_colorRemap {s : State} {d a b c e : Slot} (h : Ready (.colorRemap d a b c e) s) :
    exec (.colorRemap d a b c e) s = .next (finish { s with
      mem := paint (slotTex s.snap d) (fun x y m =>
        remapPixel s.cfg.gradInset m (slotTex s.snap b) (slotTex s.snap c) (slotTex s.snap e)
          (texRead m (slotTex s.snap a) x y)) s.mem }) :=
  runTexture_completes h rfl rfl

/-- Settles O49: each texel is remapped from its source as it was, through maps that the painting leaves alone. -/
theorem colorRemapMapsEachChannel : Obligations.ColorRemapMapsEachChannel := by
  intro s d a b c e hwf hready D
  refine ⟨_, exec_colorRemap hready, ⟨rfl, rfl, paint_sameOutside D _ s.mem⟩, ?_⟩
  intro hda hdb hdc hde x y hxy p q al flat index qr qg qb
  have hsize (n : Slot) (hn : n ∈ [b, c, e]) : (slotTex s.snap n).sizeOk = true :=
    (hready.slotOk (List.mem_cons_of_mem d (List.mem_cons_of_mem a hn))).1
  have hmaps : ∀ t ∈ [slotTex s.snap b, slotTex s.snap c, slotTex s.snap e],
      t.sizeOk = true ∧ D.extent.meets t.extent = false := by
    simp only [List.forall_mem_cons]
    exact ⟨⟨hsize b (by simp), hdb⟩, ⟨hsize c (by simp), hdc⟩, ⟨hsize e (by simp), hde⟩, by simp⟩
  have hq : q = remapPixel s.cfg.gradInset s.mem (slotTex s.snap b) (slotTex s.snap c) (slotTex s.snap e) p :=
    paint_texel_apartOrSame hwf (hready.sameSize rfl List.mem_cons_self) hda
      (g := fun _ _ m p => remapPixel s.cfg.gradInset m (slotTex s.snap b) (slotTex s.snap c) (slotTex s.snap e) p) hxy
      fun m' p hm' => remapPixel_apart hm' hmaps p
  rw [hq]
  refine ⟨remapPixel_transparent _ _ _ _ _ p, fun ha => ⟨remapPixel_alpha _ _ _ _ _ p, fun ch hch => ?_⟩⟩
  have hindex (col : U16) : gIdx (flatChannel col p.a) = index col := by
    rw [gIdx_eq, flatChannel_toNat col ha]
  rw [remapPixel_color _ _ _ _ _ p ha ch hch, mapColor_color _ _ _ _ _ p ch hch, sumChannel_toNat, hindex, hindex,
    hindex]

/-! ## COORD.REMAP -/

/-- A pixel's centre lies half a pixel past its edge (43_filters.md R295). -/
theorem centre_eq {sx : Nat} (hsx : sx ≤ 23) (x : Nat) : centre sx x = (2 * x + 1) * 2 ^ (23 - sx) := by
  rw [centre, show 24 - sx = 23 - sx + 1 by omega, pow_succ]
  push_cast
  ring

theorem displacement_eq (strength : Int) (c : U16) :
    displacement strength c = strength * ((c.toNat : Int) - 32768) / 2 ^ 7 := Int.shiftRight_eq_div_pow _ _

/-- A legal COORD.REMAP completes with each texel the sample at its centre displaced by the field. -/
theorem exec_coordRemap {s : State} {d a b : Slot} {mode : Mode} (h : Ready (.coordRemap d a b mode) s) :
    exec (.coordRemap d a b mode) s = .next (finish { s with
      mem := paint (slotTex s.snap d) (fun x y m =>
        displacedPixel s.snap m (slotTex s.snap d) (slotTex s.snap a) mode x y (texRead m (slotTex s.snap b) x y))
        s.mem }) :=
  runTexture_completes h rfl rfl

/-- Settles O50: the field is read as it was, and the samples see the source as it was. -/
theorem coordRemapDisplacesTheCentre : Obligations.CoordRemapDisplacesTheCentre := by
  intro s d a b mode hwf hready D
  refine ⟨_, exec_coordRemap hready, ⟨rfl, rfl, paint_sameOutside D _ s.mem⟩, ?_⟩
  intro hapart hdb x y hxy q
  have ha : (slotTex s.snap a).sizeOk = true := (hready.slotOk (by simp [usedSlots])).1
  obtain ⟨hsx, hsy⟩ : D.sx ≤ 12 ∧ D.sy ≤ 12 := of_decide_eq_true (hready.slotOk (n := d) (by simp [usedSlots])).1
  have htexel := paint_texel_apartOrSame hwf (hready.sameSize rfl List.mem_cons_self) hdb
    (g := fun x y m q => displacedPixel s.snap m D (slotTex s.snap a) mode x y q) hxy
    fun m' q hm' => sampleFiltered_apart ha hapart hm' _ _ _
  refine htexel.trans ?_
  rw [displacedPixel, displacedU, displacedV, centre_eq (by omega), centre_eq (by omega), displacement_eq,
    displacement_eq]

end Sys2Proof.Machine

/-! DERIVE: central differences on the torus (43_filters.md R300). -/

namespace Sys2Proof.Machine

/-! ## The neighbours -/

theorem emod_toNat_self {x n : Nat} (h : x < n) : ((x : Int) % n).toNat = x := by
  rw [← Int.natCast_mod, Int.toNat_natCast, Nat.mod_eq_of_lt h]

theorem succ_emod_toNat (x n : Nat) : (((x : Int) + 1) % n).toNat = (x + 1) % n := by
  rw [← Int.natCast_succ, ← Int.natCast_mod, Int.toNat_natCast]

/-- A step back is a step of the whole length less one forward. -/
theorem pred_emod_toNat (x : Nat) {n : Nat} (hn : 0 < n) : (((x : Int) - 1) % n).toNat = (x + n - 1) % n := by
  have hback : (((x + n - 1 : Nat) : Int)) = (x : Int) - 1 + n := by omega
  rw [← Int.add_emod_right, ← hback, ← Int.natCast_mod, Int.toNat_natCast]

/-- The red channel of `a` on the torus of the size of `d` (43_filters.md R300). -/
def redAt (m : Memory) (d a : Tex) (i j : Int) : Int :=
  ((texRead m a (i % d.w).toNat (j % d.h).toNat).r.toNat : Int)

theorem Tex.w_pos (t : Tex) : 0 < t.w := Nat.two_pow_pos _

theorem Tex.h_pos (t : Tex) : 0 < t.h := Nat.two_pow_pos _

theorem diffX_eq (m : Memory) (d a : Tex) {x y : Nat} (h : InTex d x y) :
    diffX m d a x y = redAt m d a (x + 1) y - redAt m d a (x - 1) y := by
  obtain ⟨-, hy⟩ := h
  rw [redAt, redAt, succ_emod_toNat, pred_emod_toNat x d.w_pos, emod_toNat_self hy]
  rfl

theorem diffY_eq (m : Memory) (d a : Tex) {x y : Nat} (h : InTex d x y) :
    diffY m d a x y = redAt m d a x (y + 1) - redAt m d a x (y - 1) := by
  obtain ⟨hx, -⟩ := h
  rw [redAt, redAt, succ_emod_toNat, pred_emod_toNat y d.h_pos, emod_toNat_self hx]
  rfl

/-! ## The pixels -/

theorem gradientPixel_toNat (dx dy st : Int) :
    ((gradientPixel dx dy st).r.toNat : Int) = min (max (32768 + dx * st / 262140) 0) 65535 ∧
    ((gradientPixel dx dy st).g.toNat : Int) = min (max (32768 + dy * st / 262140) 0) 65535 ∧
    (gradientPixel dx dy st).b = 0 ∧ (gradientPixel dx dy st).a = 65535 := by
  have hdiv (v : Int) : fdiv v 262140 = v / 262140 := Int.fdiv_eq_ediv_of_nonneg v (by decide)
  rw [← hdiv, ← hdiv]
  exact ⟨sat_toNat _, sat_toNat _, rfl, rfl⟩

theorem normalPixel_toNat (dx dy st : Int) :
    let n : Int := Nat.sqrt ((dx * st / 131070) ^ 2 + (dy * st / 131070) ^ 2 + 2 ^ 32).toNat
    ((normalPixel dx dy st).r.toNat : Int) = min (max (32768 + -(dx * st / 131070) * 32768 / n) 0) 65535 ∧
    ((normalPixel dx dy st).g.toNat : Int) = min (max (32768 + -(dy * st / 131070) * 32768 / n) 0) 65535 ∧
    ((normalPixel dx dy st).b.toNat : Int) = min (max (32768 + 2 ^ 31 / n) 0) 65535 ∧
    (normalPixel dx dy st).a = 65535 := by
  intro n
  have hscale (v : Int) : fdiv v 131070 = v / 131070 := Int.fdiv_eq_ediv_of_nonneg v (by decide)
  have hlength (v : Int) : fdiv v n = v / n := Int.fdiv_eq_ediv_of_nonneg v (Int.natCast_nonneg _)
  rw [← hlength, ← hlength, ← hlength, normalPixel, hscale, hscale, isqrt_eq_sqrt]
  exact ⟨sat_toNat _, sat_toNat _, sat_toNat _, rfl⟩

/-! ## The command -/

/-- The pixel DERIVE makes of two differences. -/
def derivedPixel (normals : Bool) (dx dy st : Int) : Pixel :=
  if normals then normalPixel dx dy st else gradientPixel dx dy st

/-- A legal DERIVE completes with each texel made of its differences. -/
theorem exec_derive {s : State} {d a : Slot} {normals : Bool} (h : Ready (.derive d a normals) s) :
    exec (.derive d a normals) s = .next (finish { s with
      mem := paint (slotTex s.snap d) (fun x y m =>
        derivedPixel normals (diffX m (slotTex s.snap d) (slotTex s.snap a) x y)
          (diffY m (slotTex s.snap d) (slotTex s.snap a) x y) (param s.snap 0)) s.mem }) :=
  runTexture_completes h rfl rfl

/-- The differences see nothing of a destination apart from the source. -/
theorem redAt_apart {m m' : Memory} {d a : Tex} (hc : d.compatible a = true) (hapart : d.extent.meets a.extent = false)
    (hm : SameOutside d.extent m m') (i j : Int) : redAt m' d a i j = redAt m d a i j := by
  have hin : InTex d (i % d.w).toNat (j % d.h).toNat := by
    have hw := d.w_pos
    have hh := d.h_pos
    exact ⟨by have := Int.emod_lt_of_pos i (Int.natCast_pos.2 hw); omega,
      by have := Int.emod_lt_of_pos j (Int.natCast_pos.2 hh); omega⟩
  rw [redAt, redAt, texRead_apart hapart hm (inTex_of_compatible hc hin)]

/-- A texel painted by the differences of a source apart from the destination. -/
theorem derived_texel {m : Memory} (hm : m.wf) {d a : Tex} (hc : d.compatible a = true)
    (hapart : d.extent.meets a.extent = false) {x y : Nat} (hxy : InTex d x y) (normals : Bool) (st : Int) :
    texRead (paint d (fun x y m => derivedPixel normals (diffX m d a x y) (diffY m d a x y) st) m) d x y =
      derivedPixel normals (redAt m d a (x + 1) y - redAt m d a (x - 1) y)
        (redAt m d a x (y + 1) - redAt m d a x (y - 1)) st := by
  rw [← diffX_eq m d a hxy, ← diffY_eq m d a hxy]
  refine paint_texel_apart hm hxy fun m' hm' => ?_
  simp only [diffX_eq _ d a hxy, diffY_eq _ d a hxy, redAt_apart hc hapart hm']

/-- Settles O51: the differences of the source as it was, by the wrapped neighbours. -/
theorem deriveTakesCentralDifferences : Obligations.DeriveTakesCentralDifferences := by
  intro s d a normals hwf hready D A st
  refine ⟨_, exec_derive hready, ⟨rfl, rfl, paint_sameOutside D _ s.mem⟩, ?_⟩
  intro hapart x y hxy red dx dy q clip
  have hq : q = derivedPixel normals dx dy st :=
    derived_texel hwf (hready.sameSize rfl List.mem_cons_self) hapart hxy normals st
  rw [hq]
  refine ⟨fun hgradient => ?gradient, fun hnormals => ?normal⟩
  case gradient =>
    subst hgradient
    exact gradientPixel_toNat dx dy st
  case normal =>
    subst hnormals
    exact normalPixel_toNat dx dy st

end Sys2Proof.Machine

/-! A blurred line: the weighted sum of each output's window (43_filters.md R306). -/

namespace Sys2Proof.Machine

/-! ## The window -/

theorem sumTo_eq_sum (n : Nat) (f : Nat → Int) : sumTo n f = ((List.range n).map f).sum := by
  induction n with
  | zero => rfl
  | succ n ih => rw [sumTo, ih, List.sum_range_succ]

/-- A channel of the line's pixel at the clamped or wrapped index. -/
def lineTap (ch : Pixel → U16) (buf : Array Pixel) (len : Nat) (clampm : Bool) (i : Int) : Int :=
  ((ch (buf.getD (lineIndex len clampm i) default)).toNat : Int)

/-- The sum of the window at `x`: `2 * off - 1` full taps, two fractional edge taps, and `s`, which rounds the
quotient by `2 * s` (43_filters.md R306). -/
def windowSum (tap : Int → Int) (s x : Nat) : Int :=
  s + ((List.range (2 * ((s + 32) / 64) - 1)).map fun j : Nat => 64 * tap (x + j - (((s : Int) + 32) / 64 - 1))).sum
    + ((s - 32) % 64 : Nat) * (tap (x - ((s : Int) + 32) / 64) + tap (x + ((s : Int) + 32) / 64))

theorem blurChannel_eq (ch : Pixel → U16) (buf : Array Pixel) (len s : Nat) (clampm : Bool) (x : Nat) :
    blurChannel ch buf len s clampm x = chan (windowSum (lineTap ch buf len clampm) s x / (2 * s)) := by
  have hoff : (s + 32) >>> 6 = (s + 32) / 64 := Nat.shiftRight_eq_div_pow _ _
  have hcast : (((s + 32) / 64 : Nat) : Int) = ((s : Int) + 32) / 64 := by omega
  simp only [blurChannel, hoff, hcast, sumTo_eq_sum, fdiv]
  rw [Int.fdiv_eq_ediv_of_nonneg _ (by omega)]
  rfl

/-- The weights of a window, 64 for each full tap, add up to `2 * s`. -/
theorem window_weights {s : Nat} (hs : 32 < s) : 64 * (2 * ((s + 32) / 64) - 1) + 2 * ((s - 32) % 64) = 2 * s := by
  omega

/-- `n` values from 0 to `c` add up to a value from 0 to `n * c`. -/
theorem sum_range_bounds {f : Nat → Int} {c : Int} (h0 : ∀ j, 0 ≤ f j) (h1 : ∀ j, f j ≤ c) (n : Nat) :
    0 ≤ ((List.range n).map f).sum ∧ ((List.range n).map f).sum ≤ n * c := by
  constructor
  · exact List.sum_nonneg (List.forall_mem_map.2 fun j _ => h0 j)
  · simpa using List.sum_le_card_nsmul ((List.range n).map f) c (List.forall_mem_map.2 fun j _ => h1 j)

/-- The sum of a window of channel values: at least 0, and at most that of a line of 65535s. -/
theorem windowSum_bounds {tap : Int → Int} (h0 : ∀ i, 0 ≤ tap i) (h1 : ∀ i, tap i ≤ 65535) {s : Nat} (hs : 32 < s)
    (x : Nat) : 0 ≤ windowSum tap s x ∧ windowSum tap s x ≤ s + 65535 * (2 * s) := by
  have hweights := window_weights hs
  rw [windowSum]
  generalize ((s : Int) + 32) / 64 = off
  obtain ⟨hfull, hfull'⟩ := sum_range_bounds (f := fun j => 64 * tap (x + j - (off - 1))) (c := 64 * 65535)
    (fun j => by linarith [h0 (x + j - (off - 1))]) (fun j => by linarith [h1 (x + j - (off - 1))])
    (2 * ((s + 32) / 64) - 1)
  have hedge : (0 : Int) ≤ ((s - 32) % 64 : Nat) * (tap (x - off) + tap (x + off)) :=
    mul_nonneg (by omega) (add_nonneg (h0 _) (h0 _))
  have hedge' : ((s - 32) % 64 : Nat) * (tap (x - off) + tap (x + off)) ≤ ((s - 32) % 64 : Nat) * (2 * 65535 : Int) :=
    mul_le_mul_of_nonneg_left (by linarith [h1 (x - off), h1 (x + off)]) (by omega)
  constructor <;> omega

/-- The quotient of a window's sum is a channel value. -/
theorem window_quotient_bounds {tap : Int → Int} (h0 : ∀ i, 0 ≤ tap i) (h1 : ∀ i, tap i ≤ 65535) {s : Nat}
    (hs : 32 < s) (x : Nat) : 0 ≤ windowSum tap s x / (2 * s) ∧ windowSum tap s x / (2 * s) ≤ 65535 := by
  obtain ⟨hlow, hhigh⟩ := windowSum_bounds h0 h1 hs x
  exact ⟨Int.ediv_nonneg hlow (by omega),
    Int.le_of_lt_add_one (Int.ediv_lt_of_lt_mul (by omega) (by omega))⟩

theorem lineTap_bounds (ch : Pixel → U16) (buf : Array Pixel) (len : Nat) (clampm : Bool) (i : Int) :
    0 ≤ lineTap ch buf len clampm i ∧ lineTap ch buf len clampm i ≤ 65535 := by
  have := channel_le (ch (buf.getD (lineIndex len clampm i) default))
  rw [lineTap]
  omega

/-! ## The line -/

/-- An entry of a buffer filled by `g`. -/
theorem getD_filled (g : Nat → Pixel) {n x : Nat} (h : x < n) : ((List.range n).map g).toArray.getD x default = g x := by
  simp [h]

theorem blur1D_channel (buf : Array Pixel) {len x : Nat} (hx : x < len) (s : Nat) (clampm : Bool) :
    ∀ ch ∈ channels, ch ((blur1D buf len s clampm).getD x default) = blurChannel ch buf len s clampm x := by
  rw [blur1D, getD_filled _ hx]
  simp [channels]

/-- Settles O52: the quotient of the window's sum, which the window's weights keep in the range of a channel. -/
theorem blurWindowIsTheWeightedSum : Obligations.BlurWindowIsTheWeightedSum := by
  intro buf len s x clampm _ hs hx ch hch tap off total
  have htotal : windowSum (lineTap ch buf len clampm) s x = total := by
    simp only [windowSum, total, bind_pure_comp, List.map_eq_map, List.map_map]
    rfl
  obtain ⟨hlow, hhigh⟩ := window_quotient_bounds (fun i => (lineTap_bounds ch buf len clampm i).1)
    (fun i => (lineTap_bounds ch buf len clampm i).2) hs x
  rw [blur1D_channel buf hx s clampm ch hch, blurChannel_eq, chan_toNat hlow hhigh, htotal]
  exact ⟨rfl, htotal ▸ hhigh⟩

end Sys2Proof.Machine

/-! BLUR: a texture taken line by line, each line read whole before it is written, first the rows and then the
columns (43_filters.md R305, R307; 70_reset_and_hazards.md R463). -/

namespace Sys2Proof.Machine

/-! ## A pass over the lines of a texture -/

/-- A way to cut the texture `d` into lines: `texel l i` is texel `i` of line `l`, and no texel is cut twice. -/
structure Cut (d : Tex) where
  lines : Nat
  len : Nat
  texel : Nat → Nat → Texel
  inTex {l i : Nat} : l < lines → i < len → InTex d (texel l i).1 (texel l i).2
  inj {l i l' i' : Nat} : texel l i = texel l' i' → l = l' ∧ i = i'

namespace Cut

variable {d : Tex} (c : Cut d)

/-- Line `l` of a texture of the size of `d`. -/
def read (t : Tex) (m : Memory) (l : Nat) : Array Pixel :=
  ((List.range c.len).map fun i => texRead m t (c.texel l i).1 (c.texel l i).2).toArray

/-- Line `l` of `d` <- `buf`. -/
def put (l : Nat) (buf : Array Pixel) (m : Memory) : Memory :=
  loop c.len (fun i m => texWrite m d (c.texel l i).1 (c.texel l i).2 (buf.getD i default)) m

/-- Each line of `src`, with `f` done to it, is written to `d`. -/
def pass (src : Tex) (f : Array Pixel → Array Pixel) (m : Memory) : Memory :=
  loop c.lines (fun l m => c.put l (f (c.read src m l)) m) m

variable {c} {m : Memory} {l i : Nat}

theorem read_congr {t t' : Tex} {m' : Memory}
    (h : ∀ i < c.len, texRead m' t' (c.texel l i).1 (c.texel l i).2 = texRead m t (c.texel l i).1 (c.texel l i).2) :
    c.read t' m' l = c.read t m l :=
  congrArg List.toArray (List.map_congr_left fun i hi => h i (List.mem_range.1 hi))

theorem put_wf (hm : m.wf) (l : Nat) (buf : Array Pixel) : (c.put l buf m).wf :=
  loop_keeps _ hm fun _ _ _ hm => texWrite_wf hm _ _ _ _

theorem put_sameOutside (hl : l < c.lines) (buf : Array Pixel) : SameOutside d.extent m (c.put l buf m) :=
  loop_keeps (P := SameOutside d.extent m) _ (.refl _ _) fun _ hi _ hm =>
    hm.trans (texWrite_sameOutside (c.inTex hl hi) _ _)

/-- A line put holds its buffer. -/
theorem put_texel (hm : m.wf) (hl : l < c.lines) (hi : i < c.len) (buf : Array Pixel) :
    texRead (c.put l buf m) d (c.texel l i).1 (c.texel l i).2 = buf.getD i default := by
  refine loop_visits (P := Memory.wf)
    (Q := fun m' => texRead m' d (c.texel l i).1 (c.texel l i).2 = buf.getD i default) hi hm
    (fun _ _ _ hm => texWrite_wf hm _ _ _ _) (fun _ hm => texRead_texWrite_same hm _ _ _ _) ?_
  intro j hj hij m' htexel
  have hne : c.texel l j ≠ c.texel l i := fun h => absurd (c.inj h).2 (by omega)
  rw [texRead_texWrite_other (c.inTex hl hj) (c.inTex hl hi) hne, htexel]

/-- A line put leaves the texels of the other lines. -/
theorem put_other {l' : Nat} (hl : l < c.lines) (hl' : l' < c.lines) (hne : l' ≠ l) (hi : i < c.len)
    (buf : Array Pixel) :
    texRead (c.put l' buf m) d (c.texel l i).1 (c.texel l i).2 = texRead m d (c.texel l i).1 (c.texel l i).2 :=
  loop_keeps (P := fun m' => texRead m' d (c.texel l i).1 (c.texel l i).2 =
      texRead m d (c.texel l i).1 (c.texel l i).2) _ rfl fun _ hj _ hm' =>
    (texRead_texWrite_other (c.inTex hl' hj) (c.inTex hl hi) (fun h => hne (c.inj h).1) _).trans hm'

/-- A line put leaves the other lines of the source: where it is the destination itself, and where it is apart from
it. -/
theorem read_put_other {src : Tex} (hc : d.compatible src = true) (hsrc : src = d ∨ d.extent.meets src.extent = false)
    {l' : Nat} (hl : l < c.lines) (hl' : l' < c.lines) (hne : l' ≠ l) (buf : Array Pixel) :
    c.read src (c.put l' buf m) l = c.read src m l := by
  refine read_congr fun i hi => ?_
  rcases hsrc with rfl | hapart
  · exact put_other hl hl' hne hi buf
  · exact texRead_apart hapart (put_sameOutside hl' buf) (inTex_of_compatible hc (c.inTex hl hi))

theorem pass_wf (hm : m.wf) (src : Tex) (f : Array Pixel → Array Pixel) : (c.pass src f m).wf :=
  loop_keeps _ hm fun _ _ _ hm => put_wf hm _ _

/-- After a pass each line holds `f` of the source's line as it was before the pass, in place as apart: a line is
read before it is written, and only its own turn writes it. -/
theorem pass_texel (hm : m.wf) {src : Tex} (hc : d.compatible src = true)
    (hsrc : src = d ∨ d.extent.meets src.extent = false) (f : Array Pixel → Array Pixel) (hl : l < c.lines)
    (hi : i < c.len) :
    texRead (c.pass src f m) d (c.texel l i).1 (c.texel l i).2 = (f (c.read src m l)).getD i default := by
  refine loop_visits (P := fun m' => m'.wf ∧ c.read src m' l = c.read src m l)
    (Q := fun m' => texRead m' d (c.texel l i).1 (c.texel l i).2 = (f (c.read src m l)).getD i default) hl ⟨hm, rfl⟩
    ?before ?turn ?after
  case before =>
    rintro j hj m' ⟨hwf, hread⟩
    exact ⟨put_wf hwf _ _, (read_put_other hc hsrc hl (by omega) (by omega) _).trans hread⟩
  case turn =>
    rintro m' ⟨hwf, hread⟩
    rw [put_texel hwf hl hi, hread]
  case after =>
    intro j hj hlj m' htexel
    rw [put_other hl hj (by omega) hi, htexel]

end Cut

/-! ## The two passes of BLUR -/

/-- The rows of a texture. -/
def rows (d : Tex) : Cut d where
  lines := d.h
  len := d.w
  texel y x := (x, y)
  inTex hy hx := ⟨hx, hy⟩
  inj h := ⟨congrArg Prod.snd h, congrArg Prod.fst h⟩

/-- The columns of a texture. -/
def columns (d : Tex) : Cut d where
  lines := d.w
  len := d.h
  texel x y := (x, y)
  inTex hx hy := ⟨hx, hy⟩
  inj h := ⟨congrArg Prod.fst h, congrArg Prod.snd h⟩

section
variable {d src : Tex} (hc : d.compatible src = true) (s order : Nat) (clampm : Bool) (m : Memory)
include hc

theorem compatible_size : src.w = d.w ∧ src.h = d.h := by
  obtain ⟨hsx, hsy⟩ := compatible_iff.1 hc
  exact ⟨congrArg (2 ^ ·) hsx.symm, congrArg (2 ^ ·) hsy.symm⟩

theorem rowOf_eq_read (y : Nat) : rowOf m src y = (rows d).read src m y := by
  rw [rowOf, (compatible_size hc).1]
  rfl

theorem columnOf_eq_read (x : Nat) : columnOf m src x = (columns d).read src m x := by
  rw [columnOf, (compatible_size hc).2]
  rfl

theorem blurRows_eq_pass :
    blurRows d src s order clampm m = (rows d).pass src (fun buf => blurLine buf d.w s clampm order) m := by
  simp only [blurRows, rowOf_eq_read hc]
  rfl

theorem blurColumns_eq_pass :
    blurColumns d src s order clampm m = (columns d).pass src (fun buf => blurLine buf d.h s clampm order) m := by
  simp only [blurColumns, columnOf_eq_read hc]
  rfl

variable {m} (hm : m.wf) (hsrc : src = d ∨ d.extent.meets src.extent = false) {x y : Nat} (hxy : InTex d x y)
include hm

theorem blurRows_wf : (blurRows d src s order clampm m).wf := by
  rw [blurRows_eq_pass hc]
  exact Cut.pass_wf hm _ _

include hsrc hxy

theorem blurRows_texel :
    texRead (blurRows d src s order clampm m) d x y =
      (blurLine (rowOf m src y) d.w s clampm order).getD x default := by
  rw [blurRows_eq_pass hc, rowOf_eq_read hc]
  obtain ⟨hx, hy⟩ := hxy
  exact Cut.pass_texel (c := rows d) hm hc hsrc _ hy hx

theorem blurColumns_texel :
    texRead (blurColumns d src s order clampm m) d x y =
      (blurLine (columnOf m src x) d.h s clampm order).getD y default := by
  rw [blurColumns_eq_pass hc, columnOf_eq_read hc]
  obtain ⟨hx, hy⟩ := hxy
  exact Cut.pass_texel (c := columns d) hm hc hsrc _ hx hy

end

/-! ## The body -/

/-- The horizontal pass, or without one the source as it is (43_filters.md R307). -/
def acrossMemory (d a : Tex) (s order : Nat) (clampm : Bool) (m : Memory) : Memory :=
  if 32 < s then blurRows d a s order clampm m else m

/-- The texture the vertical pass reads: the result of the horizontal one, or without one the source. -/
def acrossTex (d a : Tex) (s : Nat) : Tex := if 32 < s then d else a

theorem compatible_self (t : Tex) : t.compatible t = true := compatible_iff.2 ⟨rfl, rfl⟩

section
variable {d a : Tex} (hc : d.compatible a = true) (s order : Nat) (clampm : Bool)

include hc in
theorem acrossTex_compatible : d.compatible (acrossTex d a s) = true := by
  rw [acrossTex]
  split
  · exact compatible_self d
  · exact hc

theorem acrossTex_apartOrSame (hda : a = d ∨ d.extent.meets a.extent = false) :
    acrossTex d a s = d ∨ d.extent.meets (acrossTex d a s).extent = false := by
  rw [acrossTex]
  split
  · exact .inl rfl
  · exact hda

variable {m : Memory} (hm : m.wf)
include hc hm

theorem acrossMemory_wf : (acrossMemory d a s order clampm m).wf := by
  rw [acrossMemory]
  split
  · exact blurRows_wf hc s order clampm hm
  · exact hm

variable (hda : a = d ∨ d.extent.meets a.extent = false)
include hda

/-- What the vertical pass reads is the source blurred across. -/
theorem acrossMemory_texel {x y : Nat} (hxy : InTex d x y) :
    texRead (acrossMemory d a s order clampm m) (acrossTex d a s) x y = blurredAcross m a s order clampm x y := by
  obtain ⟨hw, -⟩ := compatible_size hc
  rw [acrossMemory, acrossTex, blurredAcross, hw]
  split
  · exact blurRows_texel hc s order clampm hm hda hxy
  · rfl

/-- The column that the vertical pass reads. -/
theorem columnOf_acrossMemory {x : Nat} (hx : x < d.w) :
    columnOf (acrossMemory d a s order clampm m) (acrossTex d a s) x =
      ((List.range a.h).map fun j => blurredAcross m a s order clampm x j).toArray := by
  rw [columnOf, (compatible_size (acrossTex_compatible hc s)).2, (compatible_size hc).2]
  exact congrArg List.toArray (List.map_congr_left fun j hj =>
    acrossMemory_texel hc s order clampm hm hda ⟨hx, List.mem_range.1 hj⟩)

end

/-- Each texel after BLUR: the source's where the order is 0 or less, else both passes' (43_filters.md R307). -/
theorem blurBody_texel {k : Snapshot} {d a : Tex} {wm : Wrap} {m : Memory} (hm : m.wf) (hc : d.compatible a = true)
    (hda : a = d ∨ d.extent.meets a.extent = false) {x y : Nat} (hxy : InTex d x y) :
    texRead (blurBody k d a wm m) d x y =
      if blurOrder k ≤ 0 then texRead m a x y
      else blurredBoth m a (blurSize (param k 0) d.sx) (blurSize (param k 1) d.sy) (blurOrder k).toNat
        wm.clampU wm.clampV x y := by
  have hcopy := copyTex_texel_apartOrSame hm hc hda hxy
  unfold blurBody
  extract_lets spx spy order m1 src
  by_cases horder : blurOrder k ≤ 0
  · rw [if_pos (.inl horder), if_pos horder, hcopy]
  rw [if_neg horder, blurredBoth]
  have hacross := acrossMemory_texel hc spx order wm.clampU hm hda hxy
  by_cases hy : 32 < spy
  · have hcolumn := columnOf_acrossMemory hc spx order wm.clampU hm hda hxy.1
    rw [if_neg (by omega), if_pos hy, if_pos hy, ← hcolumn, (compatible_size hc).2]
    exact blurColumns_texel (acrossTex_compatible hc spx) spy order wm.clampV
      (acrossMemory_wf hc spx order wm.clampU hm) (acrossTex_apartOrSame spx hda) hxy
  · rw [if_neg hy, if_neg hy]
    by_cases hx : 32 < spx
    · rw [if_neg (by omega), ← hacross, acrossTex, if_pos hx]
      rfl
    · rw [if_pos (by omega), hcopy, blurredAcross, if_neg hx]

/-! ## The command -/

theorem blurSize_eq (v : Int) (sx : Nat) :
    blurSize v sx = (min (max v 0) 65536 * 2 ^ (5 + sx) / 2 ^ 16).toNat := by
  rw [blurSize, Int.shiftRight_eq_div_pow]
  rfl

/-- An order of at most 255 passes BLUR's check (43_filters.md R305). -/
theorem blurCheck_pass {k : Snapshot} (h : param k 2 ≤ 255) :
    firstError [failIf (decide (Config.blurOrderMax < param k 2)) (errAt .param 2)] = none := by
  rw [firstError_failIf, if_neg (by simpa using h)]
  rfl

/-- A legal BLUR completes with its body done to memory, the scratch storage released. -/
theorem exec_blur {s : State} {d a : Slot} {wm : Wrap} (h : Ready (.blur d a wm) s) (horder : param s.snap 2 ≤ 255) :
    exec (.blur d a wm) s = .next (releaseScratch (finish { s with
      mem := blurBody s.snap (slotTex s.snap d) (slotTex s.snap a) wm s.mem })) :=
  (afterChecks_pass (registerChecks_of_ready h (blurCheck_pass horder))).trans
    (congrArg releasing (runTexture_quiet h.quiet _ _))

/-- Settles O53: two passes, each of which reads the lines as they were before it, in place as apart. -/
theorem blurIsSeparableInPlaceOrApart : Obligations.BlurIsSeparableInPlaceOrApart := by
  intro s d a wm hwf hready horder D A spx spy
  refine ⟨_, exec_blur hready horder, ⟨rfl, rfl, (blurBody_written ..).sameOutside⟩, fun hda x y hxy => ?_⟩
  have htexel := blurBody_texel (k := s.snap) (wm := wm) hwf (hready.sameSize rfl List.mem_cons_self) hda hxy
  rw [blurSize_eq, blurSize_eq] at htexel
  exact htexel

end Sys2Proof.Machine

/-! The blend modes of PASTE and the mixing of TERNARY (44_combiners.md R330, R339 to R351). -/

namespace Sys2Proof.Machine

/-! ## Channels of a combination -/

/-- A formula for one channel value of two is the formula for each channel of two pixels. -/
theorem zipPixel_toNat {f : U16 → U16 → U16} {g : Nat → Nat → Nat} (hf : ∀ x y, (f x y).toNat = g x.toNat y.toNat)
    (p q : Pixel) : ∀ ch ∈ channels, (ch (zipPixel f p q)).toNat = g (ch p).toNat (ch q).toNat := by
  intro ch hch
  rw [channel_zipPixel f p q ch hch, hf]

theorem color_blendColors (f : U16 → U16 → U16) (d s : Pixel) (al : U16) :
    ∀ ch ∈ colors, ch (blendColors f d s al) = f (ch d) (ch s) := by
  simp [colors, blendColors]

/-! ## The formulas of the blend modes (R339 to R351) -/

theorem sat_natCast_toNat (n : Nat) : (sat n).toNat = min n 65535 := by
  have hsat := sat_toNat n
  omega

theorem chan_natCast_toNat {n : Nat} (h : n ≤ 65535) : (chan n).toNat = n := by
  have hchan := chan_toNat (v := n) (by omega) (by omega)
  omega

theorem sat_sub_toNat (x y : U16) : (sat (ci x - ci y)).toNat = x.toNat - y.toNat := by
  have hx := channel_le x
  have hsat := sat_toNat (ci x - ci y)
  simp only [ci] at *
  omega

theorem chan_min_toNat (x y : U16) : (chan (min (ci x) (ci y))).toNat = min x.toNat y.toNat := by
  have hx := channel_le x
  have hchan : ((chan (min (ci x) (ci y))).toNat : Int) = min (ci x) (ci y) :=
    chan_toNat (by simp only [ci]; omega) (by simp only [ci]; omega)
  simp only [ci] at *
  omega

theorem chan_max_toNat (x y : U16) : (chan (max (ci x) (ci y))).toNat = max x.toNat y.toNat := by
  have hx := channel_le x
  have hy := channel_le y
  have hchan : ((chan (max (ci x) (ci y))).toNat : Int) = max (ci x) (ci y) :=
    chan_toNat (by simp only [ci]; omega) (by simp only [ci]; omega)
  simp only [ci] at *
  omega

/-- The alpha of MULTIPLY, DARKEN and LIGHTEN (R339). -/
theorem blendAlpha_toNat (d s : Pixel) :
    (blendAlpha d s).toNat = min (d.a.toNat + roundMul s.a.toNat (65535 - d.a.toNat)) 65535 := by
  rw [blendAlpha, sat_add_toNat, mulIntens_toNat, inv_toNat]

/-- MULTIPLY saturates the sum of each colour times the other's inverted alpha and of the colours' product (R348). -/
theorem blend_multiply_toNat (d s : Pixel) : ∀ ch ∈ colors, (ch (blend .multiply d s)).toNat =
    min (roundMul (65535 - s.a.toNat) (ch d).toNat + roundMul (65535 - d.a.toNat) (ch s).toNat
      + roundMul (ch s).toNat (ch d).toNat) 65535 := by
  intro ch hch
  rw [blend, color_blendColors _ _ _ _ ch hch]
  simp only [ci, mulIntens_toNat, inv_toNat]
  exact_mod_cast sat_natCast_toNat _

/-- DARKEN takes from the colours' sum the greater of each colour times the other's alpha (R350). -/
theorem blend_darken_toNat (d s : Pixel) : ∀ ch ∈ colors, ((ch (blend .darken d s)).toNat : Int) =
    min (max (((ch d).toNat : Int) + (ch s).toNat
      - max (roundMul (ch s).toNat d.a.toNat) (roundMul (ch d).toNat s.a.toNat) : Int) 0) 65535 := by
  intro ch hch
  rw [blend, color_blendColors _ _ _ _ ch hch, sat_toNat]
  simp only [ci, mulIntens_toNat, Nat.cast_max]

/-- LIGHTEN takes from the colours' sum the lesser of each colour times the other's alpha (R351). -/
theorem blend_lighten_toNat (d s : Pixel) : ∀ ch ∈ colors, ((ch (blend .lighten d s)).toNat : Int) =
    min (max (((ch d).toNat : Int) + (ch s).toNat
      - min (roundMul (ch s).toNat d.a.toNat) (roundMul (ch d).toNat s.a.toNat) : Int) 0) 65535 := by
  intro ch hch
  rw [blend, color_blendColors _ _ _ _ ch hch, sat_toNat]
  simp only [ci, mulIntens_toNat, Nat.cast_min]

theorem blend_setalpha_color (d s : Pixel) : ∀ ch ∈ colors, ch (blend .setalpha d s) = ch d := by
  simp [colors, blend]

theorem blend_prealpha_toNat (d s : Pixel) :
    ∀ ch ∈ colors, (ch (blend .prealpha d s)).toNat = roundMul (ch d).toNat s.r.toNat := by
  simp [colors, blend, mulIntens_toNat]

/-- Settles O55: the modes that treat the four channels alike by the formula of one, the others by colours and
alpha. -/
theorem blendModesByChannel : Obligations.BlendModesByChannel := by
  intro d s ta clip
  refine ⟨fun ch hch => ?alike, fun ch hch => ?byColor, rfl, rfl, blendAlpha_toNat d s, blendAlpha_toNat d s,
    blendAlpha_toNat d s⟩
  case alike =>
    have hover (x y : U16) : (sat (ci (mulIntens (inv s.a) x) + ci y)).toNat =
        min (roundMul (65535 - s.a.toNat) x.toNat + y.toNat) 65535 := by
      rw [sat_add_toNat, mulIntens_toNat, inv_toNat]
    have hscreen (x y : U16) : (sat (ci x + ci (mulIntens y (inv x)))).toNat =
        min (x.toNat + roundMul y.toNat (65535 - x.toNat)) 65535 := by
      rw [sat_add_toNat, mulIntens_toNat, inv_toNat]
    exact ⟨zipPixel_toNat (g := fun x y => min (x + y) 65535) sat_add_toNat d s ch hch,
      zipPixel_toNat sat_sub_toNat d s ch hch, zipPixel_toNat mulIntens_toNat d s ch hch,
      zipPixel_toNat chan_min_toNat d s ch hch, zipPixel_toNat chan_max_toNat d s ch hch,
      zipPixel_toNat (g := fun x y => min (roundMul (65535 - s.a.toNat) x + y) 65535) hover d s ch hch,
      zipPixel_toNat (g := fun x y => min (x + roundMul y (65535 - x)) 65535) hscreen d s ch hch⟩
  case byColor =>
    exact ⟨blend_setalpha_color d s ch hch, blend_prealpha_toNat d s ch hch, blend_multiply_toNat d s ch hch,
      blend_darken_toNat d s ch hch, blend_lighten_toNat d s ch hch⟩

/-! ## TERNARY (R330) -/

/-- A product of a channel value with another does not pass it (40_pixel.md R161). -/
theorem roundMul_le_left (a : Nat) {b : Nat} (hb : b ≤ 65535) : roundMul a b ≤ a := by
  have hmul : a * b ≤ a * 65535 := Nat.mul_le_mul_left a hb
  rw [roundMul]
  omega

/-- The two weights of the control add up to 65535, so that the mix of two channel values is a channel value
(R330). -/
theorem ternaryMix_toNat (k x y : U16) : (chan (ci (mulIntens (inv k) x) + ci (mulIntens k y))).toNat =
    roundMul (65535 - k.toNat) x.toNat + roundMul k.toNat y.toNat := by
  have hk := channel_le k
  have hx := roundMul_le_left (65535 - k.toNat) (channel_le x)
  have hy := roundMul_le_left k.toNat (channel_le y)
  have hsum : ci (mulIntens (inv k) x) + ci (mulIntens k y) =
      ((roundMul (65535 - k.toNat) x.toNat + roundMul k.toNat y.toNat : Nat) : Int) := by
    simp only [ci, mulIntens_toNat, inv_toNat, Nat.cast_add]
  rw [hsum, chan_natCast_toNat (by omega)]

theorem ternaryLerp_toNat (k : U16) (p1 p2 : Pixel) : ∀ ch ∈ channels, (ch (ternaryLerp k p1 p2)).toNat =
    roundMul (65535 - k.toNat) (ch p1).toNat + roundMul k.toNat (ch p2).toNat :=
  zipPixel_toNat (g := fun x y => roundMul (65535 - k.toNat) x + roundMul k.toNat y) (ternaryMix_toNat k) p1 p2

/-- The pixel of TERNARY from its two inputs and its control. -/
def ternaryPixel (select : Bool) (p1 p2 control : Pixel) : Pixel :=
  if select then ternarySelect control.r p1 p2 else ternaryLerp control.r p1 p2

theorem ternaryPixel_select (p1 p2 control : Pixel) :
    ternaryPixel true p1 p2 control = if 32768 ≤ control.r.toNat then p2 else p1 := by
  rw [ternaryPixel, if_pos rfl, ternarySelect]

theorem ternaryPixel_mix (p1 p2 control : Pixel) :
    ternaryPixel false p1 p2 control = ternaryLerp control.r p1 p2 := rfl

/-- A legal TERNARY completes with each texel mixed, or selected, from its three inputs. -/
theorem exec_ternary {s : State} {d a b c : Slot} {select : Bool} (h : Ready (.ternary d a b c select) s) :
    exec (.ternary d a b c select) s = .next (finish { s with
      mem := paint (slotTex s.snap d) (fun x y m =>
        ternaryPixel select (texRead m (slotTex s.snap a) x y) (texRead m (slotTex s.snap b) x y)
          (texRead m (slotTex s.snap c) x y)) s.mem }) :=
  runTexture_completes h rfl rfl

/-- Settles O54: each texel is painted from its three inputs as they were. -/
theorem ternaryMixesOrSelects : Obligations.TernaryMixesOrSelects := by
  intro s d a b c select hwf hready D
  refine ⟨_, exec_ternary hready, ⟨rfl, rfl, paint_sameOutside D _ s.mem⟩, ?_⟩
  intro hda hdb hdc x y hxy p1 p2 k q
  have hq : q = ternaryPixel select p1 p2 (texRead s.mem (slotTex s.snap c) x y) := by
    obtain ⟨m', -, hsame, htexel⟩ := paint_texel hwf D (fun x y m =>
      ternaryPixel select (texRead m (slotTex s.snap a) x y) (texRead m (slotTex s.snap b) x y)
        (texRead m (slotTex s.snap c) x y)) hxy
    refine htexel.trans ?_
    rw [hsame.texRead hxy (hready.sameSize rfl (by simp [compatSlots])) hda,
      hsame.texRead hxy (hready.sameSize rfl (by simp [compatSlots])) hdb,
      hsame.texRead hxy (hready.sameSize rfl (by simp [compatSlots])) hdc]
  rw [hq]
  refine ⟨fun hsel => ?selected, fun hsel => ?mixed⟩ <;> subst hsel
  case selected => exact ternaryPixel_select p1 p2 _
  case mixed =>
    rw [ternaryPixel_mix]
    exact ternaryLerp_toNat _ p1 p2

end Sys2Proof.Machine

/-! The vectors of BUMP: `Norm3` divides by the integer square root (44_combiners.md R360). -/

namespace Sys2Proof.Machine

theorem norm3_zero : norm3 ⟨0, 0, 0⟩ = ⟨0, 0, 0⟩ := if_pos rfl

/-- The divisor of `Norm3`: the vector's length, in 2^-16 of its components' unit, rounded down. -/
def length16 (v : Vec3) : Nat := Nat.sqrt ((v.x ^ 2 + v.y ^ 2 + v.z ^ 2) * 2 ^ 32).toNat

theorem norm3_of_ne_zero {v : Vec3} (hv : v ≠ ⟨0, 0, 0⟩) :
    norm3 v = ⟨Int.tdiv (v.x * 2 ^ 32) (length16 v), Int.tdiv (v.y * 2 ^ 32) (length16 v),
      Int.tdiv (v.z * 2 ^ 32) (length16 v)⟩ := by
  rw [norm3, if_neg hv]
  simp only [isqrt_eq_sqrt, shl, tdiv, length16]

/-- A component is at most as long as the vector: its square is part of the sum. -/
theorem component_le_length16 {v : Vec3} {c : Int} (hc : c ^ 2 ≤ v.x ^ 2 + v.y ^ 2 + v.z ^ 2) :
    c.natAbs * 2 ^ 16 ≤ length16 v := by
  rw [length16, Nat.le_sqrt']
  zify
  rw [Int.toNat_of_nonneg (by positivity), mul_pow, sq_abs]
  linarith

/-- A component divided by the vector's length does not pass 1.0. -/
theorem tdiv_length16_bounds {v : Vec3} {c : Int} (hc : c ^ 2 ≤ v.x ^ 2 + v.y ^ 2 + v.z ^ 2) :
    -65536 ≤ Int.tdiv (c * 2 ^ 32) (length16 v) ∧ Int.tdiv (c * 2 ^ 32) (length16 v) ≤ 65536 := by
  have hlen := component_le_length16 hc
  have habs : (Int.tdiv (c * 2 ^ 32) (length16 v)).natAbs ≤ 65536 := by
    have hscale : (c * 2 ^ 32).natAbs = c.natAbs * 2 ^ 32 := by rw [Int.natAbs_mul, Int.natAbs_pow]; rfl
    rw [Int.natAbs_tdiv, hscale, Int.natAbs_natCast]
    apply Nat.div_le_of_le_mul
    calc c.natAbs * 2 ^ 32 = c.natAbs * 2 ^ 16 * 2 ^ 16 := by ring
      _ ≤ length16 v * 2 ^ 16 := Nat.mul_le_mul_right _ hlen
  omega

theorem norm3_bounds {v : Vec3} (hv : v ≠ ⟨0, 0, 0⟩) :
    ∀ c ∈ [(norm3 v).x, (norm3 v).y, (norm3 v).z], -65536 ≤ c ∧ c ≤ 65536 := by
  have hx := sq_nonneg v.x
  have hy := sq_nonneg v.y
  have hz := sq_nonneg v.z
  rw [norm3_of_ne_zero hv]
  simp only [List.forall_mem_cons]
  exact ⟨tdiv_length16_bounds (by linarith), tdiv_length16_bounds (by linarith), tdiv_length16_bounds (by linarith),
    by simp⟩

theorem length16_eq {v : Vec3} {l : Nat} (hlow : (l : Int) ^ 2 ≤ (v.x ^ 2 + v.y ^ 2 + v.z ^ 2) * 2 ^ 32)
    (hhigh : (v.x ^ 2 + v.y ^ 2 + v.z ^ 2) * 2 ^ 32 < ((l : Int) + 1) ^ 2) : length16 v = l := by
  have hsum : ((((v.x ^ 2 + v.y ^ 2 + v.z ^ 2) * 2 ^ 32).toNat : Nat) : Int) = (v.x ^ 2 + v.y ^ 2 + v.z ^ 2) * 2 ^ 32 :=
    Int.toNat_of_nonneg (by positivity)
  rw [← hsum] at hlow hhigh
  exact (Nat.eq_sqrt'.2 ⟨by exact_mod_cast hlow, by exact_mod_cast hhigh⟩).symm

/-- The examples of R360: vectors of length 1.0, the root of 2 and 5 ulp. -/
theorem norm3_examples : norm3 ⟨0, 0, -65536⟩ = ⟨0, 0, -65536⟩ ∧
    norm3 ⟨65536, 0, -65536⟩ = ⟨46340, 0, -46340⟩ ∧
    norm3 ⟨3, 4, 0⟩ = ⟨39321, 52428, 0⟩ := by
  rw [norm3_of_ne_zero (by decide), norm3_of_ne_zero (by decide), norm3_of_ne_zero (by decide),
    length16_eq (v := ⟨0, 0, -65536⟩) (l := 65536 * 65536) (by norm_num) (by norm_num),
    length16_eq (v := ⟨65536, 0, -65536⟩) (l := 6074000999) (by norm_num) (by norm_num),
    length16_eq (v := ⟨3, 4, 0⟩) (l := 5 * 65536) (by norm_num) (by norm_num)]
  decide

/-- Settles O58: the square root is the integer one, and the length of a vector is at least each component. -/
theorem normalisedVectorIsBounded : Obligations.NormalisedVectorIsBounded :=
  ⟨fun _ hv => ⟨norm3_of_ne_zero hv, norm3_bounds hv⟩, norm3_zero, fun _ _ => rfl, norm3_examples⟩

end Sys2Proof.Machine

/-! BUMP: the light at a pixel, the lit albedo and the specular addition (44_combiners.md R361 to R363). -/

namespace Sys2Proof.Machine

/-! ## The light (R361, R362) -/

theorem lightCentre_eq (sx x : Nat) : lightCentre sx x = (2 * x + 1) * 2 ^ (15 - sx) := by
  rw [lightCentre]
  push_cast
  rfl

theorem lightVector_eq (k : Snapshot) (d : Tex) (directional : Bool) (x y : Nat) :
    let dn := norm3 ⟨param k 3, param k 4, param k 5⟩
    lightVector k d directional x y = if directional then ⟨-dn.x, -dn.y, -dn.z⟩ else
      norm3 ⟨param k 0 - (2 * x + 1) * 2 ^ (15 - d.sx), param k 1 - (2 * y + 1) * 2 ^ (15 - d.sy), param k 2⟩ := by
  simp only [lightVector, lightAxis, lightCentre_eq]

/-! ## The terms of a pixel (R363) -/

/-- The non-negative part of a dot product of Q16 vectors, in Q16: `ndl`, `ndh` and `spot`. -/
def positivePart (v : Int) : Int := max 0 (v / 2 ^ 16)

theorem positivePart_nonneg (v : Int) : 0 ≤ positivePart v := le_max_left _ _

theorem normalOf_eq (n : Pixel) : normalOf n =
    ⟨2 * ((n.r.toNat : Int) - 32768), 2 * ((n.g.toNat : Int) - 32768), 2 * ((n.b.toNat : Int) - 32768)⟩ := by
  simp only [normalOf, ci, mul_comm]

theorem facing_eq (n l : Vec3) : facing n l = positivePart (dot n l) := by
  rw [facing, Int.shiftRight_eq_div_pow]
  rfl

theorem falloffIndex_eq (k : Snapshot) (l : Vec3) :
    falloffIndex k l = min (positivePart (-dot (lightAxis k) l)) 65536 * 2 ^ 8 := by
  rw [falloffIndex, spotOf, Int.shiftRight_eq_div_pow]
  rfl

theorem specularIndex_eq (n : Pixel) (l : Vec3) :
    specularIndex n l = min (positivePart (dot (normalOf n) (halfVector l))) 65536 * 2 ^ 8 := by
  rw [specularIndex, facing_eq]
  rfl

theorem sat_toNat_of_nonneg {v : Int} (h : 0 ≤ v) : (sat v).toNat = (min v 65535).toNat := by
  have hsat := sat_toNat v
  omega

/-- Ambient plus diffuse light, saturated: neither is negative. -/
theorem lighting_toNat (k : Snapshot) {ndl : Int} (hndl : 0 ≤ ndl) : ∀ ch ∈ channels, (ch (lighting k ndl)).toNat =
    (min (((ch (pixPair k 6)).toNat : Int) + (ch (pixPair k 8)).toNat * ndl / 2 ^ 16) 65535).toNat := by
  intro ch hch
  have hdiffuse : 0 ≤ ((ch (pixPair k 8)).toNat : Int) * ndl / 2 ^ 16 :=
    Int.ediv_nonneg (mul_nonneg (by omega) hndl) (by norm_num)
  rw [lighting, channel_zipPixel _ _ _ ch hch, Int.shiftRight_eq_div_pow]
  exact sat_toNat_of_nonneg (add_nonneg (Int.natCast_nonneg _) hdiffuse)

/-! ## The lit pixel (R363) -/

/-- A light, with FALLOFF times the falloff gradient. -/
def withFalloff (falloff : Bool) (q fp : Pixel) : Pixel := if falloff then pixMulC q fp else q

/-- The pixel from its albedo `p`, the ambient and diffuse light `ad`, and the two gradients' samples. -/
def shade (spec falloff : Bool) (p ad fp sp : Pixel) : Pixel :=
  let lit := pixMulC p (withFalloff falloff ad fp)
  if spec then addSpecular lit (withFalloff falloff sp fp) else lit

theorem bumpPixel_eq_shade (g : GradInset) (k : Snapshot) (m : Memory) (c e : Tex) (spec falloff : Bool) (p n : Pixel)
    (l : Vec3) : bumpPixel g k m c e spec falloff p n l =
      shade spec falloff p (lighting k (facing (normalOf n) l)) (sampleGradient g m e (falloffIndex k l))
        (sampleGradient g m c (specularIndex n l)) := by
  simp only [bumpPixel, shade, withFalloff]

theorem pixMulC_toNat (p q : Pixel) : ∀ ch ∈ channels, (ch (pixMulC p q)).toNat = roundMul (ch p).toNat (ch q).toNat :=
  zipPixel_toNat mulIntens_toNat p q

theorem withFalloff_toNat (falloff : Bool) (q fp : Pixel) : ∀ ch ∈ channels, (ch (withFalloff falloff q fp)).toNat =
    if falloff then roundMul (ch q).toNat (ch fp).toNat else (ch q).toNat := by
  intro ch hch
  by_cases h : falloff = true
  · rw [withFalloff, if_pos h, if_pos h, pixMulC_toNat _ _ ch hch]
  · rw [withFalloff, if_neg h, if_neg h]

theorem withFalloff_false (q fp : Pixel) : withFalloff false q fp = q := if_neg Bool.false_ne_true

theorem withFalloff_congr {falloff : Bool} {fp fp' : Pixel} (h : falloff = true → fp' = fp) (q : Pixel) :
    withFalloff falloff q fp' = withFalloff falloff q fp := by
  cases falloff with
  | false => rw [withFalloff_false, withFalloff_false]
  | true => rw [h rfl]

/-- A pixel depends on the gradients that its flags use only. -/
theorem shade_congr {spec falloff : Bool} {fp fp' sp sp' : Pixel} (hfp : falloff = true → fp' = fp)
    (hsp : spec = true → sp' = sp) (p ad : Pixel) :
    shade spec falloff p ad fp' sp' = shade spec falloff p ad fp sp := by
  rw [shade, shade, withFalloff_congr hfp, withFalloff_congr hfp]
  cases spec with
  | false => simp only [Bool.false_eq_true, if_false]
  | true => rw [hsp rfl]

/-- The specular addition stops at the pixel's own alpha, which is a channel value. -/
theorem addSpecular_toNat (o sp : Pixel) : ∀ ch ∈ colors,
    (ch (addSpecular o sp)).toNat = min ((ch o).toNat + (ch sp).toNat) o.a.toNat := by
  have halpha := channel_le o.a
  have hcap (x y : U16) : (chan (min (ci x + ci y) (ci o.a))).toNat = min (x.toNat + y.toNat) o.a.toNat := by
    have hcast : min (ci x + ci y) (ci o.a) = ((min (x.toNat + y.toNat) o.a.toNat : Nat) : Int) := by
      simp only [ci, Nat.cast_min, Nat.cast_add]
    rw [hcast, chan_natCast_toNat (by omega)]
  simp only [colors, List.forall_mem_cons]
  exact ⟨hcap _ _, hcap _ _, hcap _ _, by simp⟩

/-- The channels of a pixel whose ambient and diffuse light is `light`: of the lit albedo, and with SPEC the colours
with the specular gradient added. -/
theorem shade_toNat (spec falloff : Bool) (p fp sp : Pixel) {ad : Pixel} {light : (Pixel → U16) → Nat}
    (had : ∀ ch ∈ channels, (ch ad).toNat = light ch) :
    let lit : (Pixel → U16) → Nat := fun ch =>
      roundMul (ch p).toNat (if falloff then roundMul (light ch) (ch fp).toNat else light ch)
    let q := shade spec falloff p ad fp sp
    q.a.toNat = lit Pixel.a ∧ ∀ ch ∈ colors, (ch q).toNat =
      if spec then
        min (lit ch + (if falloff then roundMul (ch sp).toNat (ch fp).toNat else (ch sp).toNat)) (lit Pixel.a)
      else lit ch := by
  intro lit q
  have hlit : ∀ ch ∈ channels, (ch (pixMulC p (withFalloff falloff ad fp))).toNat = lit ch := fun ch hch => by
    rw [pixMulC_toNat _ _ ch hch, withFalloff_toNat _ _ _ ch hch, had ch hch]
  have hchannel (ch : Pixel → U16) (hch : ch ∈ colors) : ch ∈ channels := List.mem_append_left [Pixel.a] hch
  have halpha := hlit Pixel.a (by simp [channels])
  simp only [q, shade]
  split
  · refine ⟨halpha, fun ch hch => ?_⟩
    rw [addSpecular_toNat _ _ ch hch, hlit ch (hchannel ch hch), halpha, withFalloff_toNat _ _ _ ch (hchannel ch hch)]
  · exact ⟨halpha, fun ch hch => hlit ch (hchannel ch hch)⟩

/-! ## The command -/

/-- The pixel of BUMP at (x, y) from the texels of its albedo and its normal map. -/
def bumpAt (s : State) (d c e : Slot) (directional spec falloff : Bool) (x y : Nat) (m : Memory) (p n : Pixel) :
    Pixel :=
  bumpPixel s.cfg.gradInset s.snap m (slotTex s.snap c) (slotTex s.snap e) spec falloff p n
    (lightVector s.snap (slotTex s.snap d) directional x y)

/-- A legal BUMP completes with each texel lit. -/
theorem exec_bump {s : State} {d a b c e : Slot} {directional spec falloff : Bool}
    (h : Ready (.bump d a b c e directional spec falloff) s) :
    exec (.bump d a b c e directional spec falloff) s = .next (finish { s with
      mem := paint (slotTex s.snap d) (fun x y m => bumpAt s d c e directional spec falloff x y m
        (texRead m (slotTex s.snap a) x y) (texRead m (slotTex s.snap b) x y)) s.mem }) := by
  refine runTexture_completes (d := slotTex s.snap d) (body := paint _ _) h rfl ?_
  rw [footprint, listExtents, List.append_nil]
  rfl

/-- A lit pixel sees nothing of a destination apart from the gradients that its flags use. -/
theorem bumpAt_apart {s : State} {d a b c e : Slot} {directional spec falloff : Bool}
    (h : Ready (.bump d a b c e directional spec falloff) s) (hdc : spec = true → Apart s.snap d c)
    (hde : falloff = true → Apart s.snap d e) {m : Memory} (hm : SameOutside (slotTex s.snap d).extent s.mem m)
    (x y : Nat) (p n : Pixel) : bumpAt s d c e directional spec falloff x y m p n =
      bumpAt s d c e directional spec falloff x y s.mem p n := by
  rw [bumpAt, bumpAt, bumpPixel_eq_shade, bumpPixel_eq_shade]
  refine shade_congr (fun hfalloff => ?_) (fun hspec => ?_) _ _
  · have hsize : (slotTex s.snap e).sizeOk = true := (h.slotOk (by simp [usedSlots, hfalloff])).1
    exact sampleGradient_apart hsize (hde hfalloff) hm _ _
  · have hsize : (slotTex s.snap c).sizeOk = true := (h.slotOk (by simp [usedSlots, hspec])).1
    exact sampleGradient_apart hsize (hdc hspec) hm _ _

/-- Settles O59: each texel is lit from its albedo and its normal as they were, by gradients that the painting leaves
alone. -/
theorem bumpLightsTheSurface : Obligations.BumpLightsTheSurface := by
  intro s d a b c e directional spec falloff hwf hready k D
  refine ⟨_, exec_bump hready, ⟨rfl, rfl, paint_sameOutside D _ s.mem⟩, ?_⟩
  intro hda hdb hdc hde x y hxy p n dn l h nv term fp sp lit q
  have hq : q = bumpAt s d c e directional spec falloff x y s.mem p n := by
    obtain ⟨m', -, hsame, htexel⟩ := paint_texel hwf D (fun x y m => bumpAt s d c e directional spec falloff x y m
      (texRead m (slotTex s.snap a) x y) (texRead m (slotTex s.snap b) x y)) hxy
    refine htexel.trans ?_
    rw [hsame.texRead hxy (hready.sameSize rfl (by simp [compatSlots])) hda,
      hsame.texRead hxy (hready.sameSize rfl (by simp [compatSlots])) hdb,
      bumpAt_apart hready hdc hde (hsame.sameOutside hxy)]
  have hl : lightVector k D directional x y = l := lightVector_eq k D directional x y
  have hfp : sampleGradient s.cfg.gradInset s.mem (slotTex k e) (falloffIndex k l) = fp := by rw [falloffIndex_eq]; rfl
  have hsp : sampleGradient s.cfg.gradInset s.mem (slotTex k c) (specularIndex n l) = sp := by
    rw [specularIndex_eq, normalOf_eq]; rfl
  have hndl : facing (normalOf n) l = term (dot nv l) := by rw [facing_eq, normalOf_eq]; rfl
  have hshade := shade_toNat spec falloff p fp sp (lighting_toNat k (positivePart_nonneg (dot nv l)))
  rw [hq, bumpAt, hl, bumpPixel_eq_shade, hfp, hsp, hndl]
  simp only [lit]
  exact hshade

end Sys2Proof.Machine

/-! LINEAR.COMBINE: its records' checks in their order, and the weighted sum of its inputs (44_combiners.md R370 to
R372). -/

namespace Sys2Proof.Machine

/-! ## The checks of a record (R371) -/

/-- A port that does not fail the read of record `i` passes it (60_exceptions.md R406 (a)). -/
theorem listReadCheck_pass {p : PortAnswer} {i : Nat} (h : ∀ n, p = .listError n → n ≠ i) :
    listReadCheck p i = none := by
  cases p with
  | listError n => exact listReadCheck_other (h n rfl)
  | ok => rfl
  | bodyError => rfl

/-- Records that are read and pass leave the decision to the records after them (60_exceptions.md R404 (5)). -/
theorem inputChecks_skip {p : PortAnswer} {m : Memory} {l : Nat} (k i n : Nat)
    (hread : ∀ j, i ≤ j → j < i + k → listReadCheck p j = none)
    (hpass : ∀ j, i ≤ j → j < i + k → firstError (recordChecks j (inputRecord m l j)) = none) :
    firstError (inputChecks p i (inputRecords m l i (k + n))) =
      firstError (inputChecks p (i + k) (inputRecords m l (i + k) n)) := by
  induction k generalizing i with
  | zero => rw [Nat.zero_add, Nat.add_zero]
  | succ k ih =>
    have hrest := ih (i + 1) (fun j _ _ => hread j (by omega) (by omega)) fun j _ _ => hpass j (by omega) (by omega)
    rw [Nat.succ_add, inputRecords, inputChecks, hread i le_rfl (by omega), List.cons_append, firstError,
      firstError_append, hpass i le_rfl (by omega), Option.none_or, hrest, Nat.add_right_comm, Nat.add_assoc]

/-- Records that are all read and pass raise no error. -/
theorem inputChecks_pass {p : PortAnswer} {m : Memory} {l n : Nat} (hread : ∀ j < n, listReadCheck p j = none)
    (hpass : ∀ j < n, firstError (recordChecks j (inputRecord m l j)) = none) :
    firstError (inputChecks p 0 (inputRecords m l 0 n)) = none :=
  inputChecks_skip n 0 0 (fun j _ hj => hread j (by omega)) fun j _ hj => hpass j (by omega)

/-- The first record that fails a check gives the error. -/
theorem inputChecks_first {p : PortAnswer} {m : Memory} {l k n : Nat} {e : CmdError} (hk : k < n)
    (hread : ∀ j ≤ k, listReadCheck p j = none)
    (hpass : ∀ j < k, firstError (recordChecks j (inputRecord m l j)) = none)
    (hfail : firstError (recordChecks k (inputRecord m l k)) = some e) :
    firstError (inputChecks p 0 (inputRecords m l 0 n)) = some e := by
  obtain ⟨n', rfl⟩ : ∃ n', n = k + (n' + 1) := ⟨n - k - 1, by omega⟩
  rw [inputChecks_skip k 0 (n' + 1) (fun j _ _ => hread j (by omega)) fun j _ _ => hpass j (by omega), Nat.zero_add,
    inputRecords, inputChecks, hread k le_rfl, List.cons_append, firstError, firstError_append, hfail, Option.some_or]

/-- The five checks of a record in their order (R371). -/
theorem firstError_recordChecks (i : Nat) (r : InputRecord) {sx sy : Nat} (hsx : (r.size.extractLsb' 0 4).toNat = sx)
    (hsy : (r.size.extractLsb' 8 4).toNat = sy) :
    firstError (recordChecks i r) =
      if r.size &&& 0xFFF8F0F0 ≠ 0 ∨ r.last ≠ 0 then some (errRecord .reserved i (recordBadBit r))
      else if 12 < sx ∨ 12 < sy then some (errRecord .texsize i 0)
      else if r.base.toNat % 8 ≠ 0 then some (errRecord .align i 0)
      else if 2 ^ 32 < r.base.toNat + 8 * 2 ^ (sx + sy) then some (errRecord .texaddr i 0)
      else if r.weight.toInt < -127 * 65536 ∨ 127 * 65536 < r.weight.toInt then some (errRecord .coef i 0)
      else none := by
  subst hsx hsy
  have hsize : (recordTex r).sizeOk = false ↔ 12 < (recordTex r).sx ∨ 12 < (recordTex r).sy := by
    rw [Tex.sizeOk, decide_eq_false_iff_not, Config.texMaxLog2]
    omega
  have hfits : (recordTex r).fits = false ↔
      2 ^ 32 < r.base.toNat + 8 * 2 ^ ((recordTex r).sx + (recordTex r).sy) := by
    rw [Tex.fits, decide_eq_false_iff_not, Tex.n, Tex.w, Tex.h, ← pow_add, not_le]
    rfl
  simp only [recordChecks, firstError_failIf, decide_eq_true_eq, Bool.not_eq_true', coefOk_false, hsize, hfits]
  rfl

/-- A record's lowest offending bit lies in SIZE, where SIZE has one. -/
theorem recordBadBit_size {r : InputRecord} (h : r.size &&& 0xFFF8F0F0 ≠ 0) :
    recordBadBit r = lowestSet (r.size &&& 0xFFF8F0F0) := if_pos h

/-- Else it lies in the last word. -/
theorem recordBadBit_last {r : InputRecord} (h : r.size &&& 0xFFF8F0F0 = 0) : recordBadBit r = 32 + lowestSet r.last :=
  if_neg (not_not.2 h)

/-- LINEAR.COMBINE, its register checks passed, ends with the error of the first record that fails a check. -/
theorem failsWith_of_recordChecks {s : State} {d : Slot} {k : Nat} {e : CmdError}
    (hreg : firstError (registerChecks (.linearCombine d) s.snap) = none)
    (hwin : reachesWindow s.cfg [inputList s.snap] = false) (hport : ∀ n, s.port = .listError n → k < n)
    (hk : (k : Int) < param s.snap 1)
    (hpass : ∀ j < k, firstError (recordChecks j (inputRecord s.mem (paramU s.snap 0) j)) = none)
    (hfail : firstError (recordChecks k (inputRecord s.mem (paramU s.snap 0) k)) = some e) :
    FailsWith (.linearCombine d) s e := by
  refine failsWith_of_listChecks rfl hreg hwin ?_
  refine inputChecks_first (k := k) (by rw [listCount]; omega) (fun j hj => listReadCheck_pass fun n hn => ?_) hpass
    hfail
  have hlater := hport n hn
  omega

/-- The count, the constant weight and the pointer of LINEAR.COMBINE in their ranges pass its checks (R371). -/
theorem combineChecks_pass {k : Snapshot} (hlow : 0 ≤ param k 1) (hhigh : param k 1 ≤ 255)
    (hcl : -127 * 65536 ≤ param k 2) (hch : param k 2 ≤ 127 * 65536)
    (hlist : 0 < param k 1 → paramU k 0 % 4 = 0 ∧ paramU k 0 + 24 * param k 1 ≤ 2 ^ 32) :
    firstError (combineChecks k) = none := by
  rw [firstError_combineChecks, if_neg (by omega), if_neg (by omega), if_neg (by omega)]

/-- Settles O22: past the register checks and the records before it, the first check that the record fails. -/
theorem recordErrorsInOrder : Obligations.RecordErrorsInOrder := by
  intro s d k hd hwin hport hlow hhigh hcl hch halign hfits hk hpass r sx sy info
  have hreg : firstError (registerChecks (.linearCombine d) s.snap) = none := by
    rw [firstError_registerChecks_linearCombine hd]
    exact combineChecks_pass hlow hhigh hcl hch fun _ => ⟨halign, hfits⟩
  have hfails {e : CmdError} (hfail : firstError (recordChecks k r) = some e) : FailsWith (.linearCombine d) s e :=
    failsWith_of_recordChecks hreg hwin hport hk hpass hfail
  have hchecks := firstError_recordChecks k r (sx := sx) (sy := sy) rfl rfl
  refine ⟨fun hsize => ?size, fun hsize hlast => ?last, fun hsize hlast => ?fields⟩
  case size =>
    obtain ⟨hlt, hset, hbelow⟩ := lowestSet_spec hsize
    refine ⟨_, hlt, hset, hbelow, hfails ?_⟩
    rw [hchecks, if_pos (.inl hsize), recordBadBit_size hsize]
    rfl
  case last =>
    obtain ⟨hlt, hset, hbelow⟩ := lowestSet_spec hlast
    refine ⟨_, hlt, hset, hbelow, hfails ?_⟩
    rw [hchecks, if_pos (.inr hlast), recordBadBit_last hsize]
    rfl
  case fields =>
    rw [if_neg (not_or.2 ⟨not_not.2 hsize, not_not.2 hlast⟩)] at hchecks
    refine ⟨fun hbig => hfails (hchecks.trans (if_pos hbig)), fun hsx hsy => ?_⟩
    rw [if_neg (by omega)] at hchecks
    refine ⟨fun hodd => hfails (hchecks.trans (if_pos hodd)), fun heven => ?_⟩
    rw [if_neg (by omega)] at hchecks
    refine ⟨fun hout => hfails (hchecks.trans (if_pos hout)), fun hin hweight => ?_⟩
    rw [if_neg (by omega)] at hchecks
    exact hfails (hchecks.trans (if_pos hweight))

/-! ## The sum (R372) -/

/-- The sample of a record's texture at the centre (u, v) plus the record's shifts. -/
def recordSample (m : Memory) (u v : Int) (r : InputRecord) : Pixel :=
  sampleFiltered m (recordTex r) (recordU r u) (recordV r v) (recordMode r)

theorem combineFrom_eq_sum (m : Memory) (u v : Int) (ch : Pixel → U16) (rs : List InputRecord) (acc : Int) :
    combineFrom m u v ch rs acc = acc + (rs.map fun r => r.weight.toInt * (ch (recordSample m u v r)).toNat).sum := by
  induction rs generalizing acc with
  | nil => simp [combineFrom]
  | cons r rs ih =>
    rw [combineFrom, ih, List.map_cons, List.sum_cons, add_assoc]
    rfl

/-- A channel of the combination is the exact sum, rounded half up and clamped. -/
theorem combinePixel_toNat (m : Memory) (u v : Int) (rs : List InputRecord) (cw : Int) (c : Pixel) :
    ∀ ch ∈ channels, ((ch (combinePixel m u v rs cw c)).toNat : Int) =
      min (max ((cw * (ch c).toNat + (rs.map fun r => r.weight.toInt * (ch (recordSample m u v r)).toNat).sum + 32768)
        / 65536) 0) 65535 := by
  have hchannel (ch : Pixel → U16) : ((combineChannel m u v rs cw c ch).toNat : Int) =
      min (max ((cw * (ch c).toNat + (rs.map fun r => r.weight.toInt * (ch (recordSample m u v r)).toNat).sum + 32768)
        / 65536) 0) 65535 := by
    rw [combineChannel, sat_toNat, combineFrom_eq_sum, Int.shiftRight_eq_div_pow]
    rfl
  simp only [channels, List.forall_mem_cons]
  exact ⟨hchannel _, hchannel _, hchannel _, hchannel _, by simp⟩

/-- Saturation leaves a channel value alone. -/
theorem sat_ci (c : U16) : sat (ci c) = c := by
  apply BitVec.eq_of_toNat_eq
  rw [ci, sat_natCast_toNat, min_eq_left (channel_le c)]

/-- With no input and weight 1.0 the combination is the constant. -/
theorem combinePixel_constant (m : Memory) (u v : Int) (c : Pixel) : combinePixel m u v [] 65536 c = c := by
  have hround (x : U16) : (65536 * ci x + 32768) >>> (16 : Nat) = ci x := by
    rw [Int.shiftRight_eq_div_pow]
    omega
  have hchannel (ch : Pixel → U16) : combineChannel m u v [] 65536 c ch = ch c := by
    rw [combineChannel, combineFrom, hround, sat_ci]
  rw [combinePixel, hchannel, hchannel, hchannel, hchannel]

/-- A combination sees nothing of a destination apart from its inputs' textures. -/
theorem combinePixel_apart {d : Tex} {m m' : Memory} (hm : SameOutside d.extent m m') {rs : List InputRecord}
    (hrs : ∀ r ∈ rs, (recordTex r).sizeOk = true ∧ d.extent.meets (recordTex r).extent = false) (u v cw : Int)
    (c : Pixel) : combinePixel m' u v rs cw c = combinePixel m u v rs cw c := by
  have hsample : ∀ r ∈ rs, recordSample m' u v r = recordSample m u v r := fun r hr => by
    obtain ⟨hsize, hapart⟩ := hrs r hr
    exact sampleFiltered_apart hsize hapart hm _ _ _
  have hsum (ch : Pixel → U16) (acc : Int) : combineFrom m' u v ch rs acc = combineFrom m u v ch rs acc := by
    rw [combineFrom_eq_sum, combineFrom_eq_sum, List.map_congr_left fun r hr => by rw [hsample r hr]]
  simp only [combinePixel, combineChannel, hsum]

/-! ## The command -/

/-- The body of LINEAR.COMBINE: each texel the combination at its centre. -/
def combineBody (s : State) (d : Slot) : Memory → Memory :=
  paint (slotTex s.snap d) fun x y m =>
    combinePixel m (centre (slotTex s.snap d).sx x) (centre (slotTex s.snap d).sy y)
      (inputListRecords s.snap s.mem) (constWeight s.snap) (constColor s.snap)

/-- A legal LINEAR.COMBINE completes with its list read and its body done to memory, the scratch storage released. -/
theorem exec_linearCombine {s : State} {d : Slot} (h : Ready (.linearCombine d) s)
    (hparam : firstError (combineChecks s.snap) = none)
    (hlist : firstError (inputChecks .ok 0 (inputListRecords s.snap s.mem)) = none) :
    exec (.linearCombine d) s =
      .next (releaseScratch (finish { loadInputs s with mem := combineBody s d s.mem })) := by
  obtain ⟨hport, hwin⟩ : Quiet s [inputList s.snap] := h.quiet.mono (by simp [footprint, listExtents])
  have htextures : Quiet (loadInputs s) (slotExtents s.snap [d] ++ recordExtents (inputListRecords s.snap s.mem)) :=
    Quiet.mono (s := loadInputs s) h.quiet fun e he => by
      rcases List.mem_append.1 he with he | he
      · exact List.mem_append_left _ he
      · exact List.mem_append_right _ (List.mem_cons_of_mem _ he)
  have hread : firstError (listChecks (.linearCombine d) s.snap s.mem s.port) = none := by rw [hport]; exact hlist
  have hbody := runTexture_quiet htextures (slotTex s.snap d) (combineBody s d)
  exact (afterChecks_pass (registerChecks_of_ready h hparam)).trans
    ((unlessSideEffects_pass hwin).trans ((afterChecks_pass hread).trans (congrArg releasing hbody)))

/-- Settles O60: the list read passes, and each texel is painted with the sum of samples that the painting leaves
alone. -/
theorem linearCombineSumsItsInputs : Obligations.LinearCombineSumsItsInputs := by
  intro s d hwf hready hlow hhigh hcl hch hpointer rs hpass D
  have hlist : firstError (inputChecks .ok 0 rs) = none :=
    inputChecks_pass (fun _ _ => rfl) fun j hj => hpass j (by omega)
  obtain ⟨hsx, hsy⟩ : D.sx ≤ 12 ∧ D.sy ≤ 12 := of_decide_eq_true (hready.slotOk (n := d) (by simp [usedSlots])).1
  refine ⟨_, exec_linearCombine hready (combineChecks_pass hlow hhigh hcl hch hpointer) hlist,
    ⟨rfl, rfl, paint_sameOutside D _ s.mem⟩, ?sum, ?fill⟩
  case sum =>
    intro hapart x y hxy sample ch hch
    have htexel : texRead (combineBody s d s.mem) D x y =
        combinePixel s.mem (centre D.sx x) (centre D.sy y) rs (param s.snap 2) (pixPair s.snap 3) :=
      paint_texel_apart hwf hxy fun m' hm' =>
        combinePixel_apart hm' (fun r hr => ⟨inputChecks_sizeOk hlist r hr, hapart r hr⟩) _ _ _ _
    have hvalue := combinePixel_toNat s.mem (centre D.sx x) (centre D.sy y) rs (param s.snap 2) (pixPair s.snap 3)
      ch hch
    rw [← htexel, centre_eq (by omega), centre_eq (by omega)] at hvalue
    exact hvalue
  case fill =>
    intro hnone hone x y hxy
    have hrs : inputListRecords s.snap s.mem = [] := by
      rw [inputListRecords, listCount, hnone]; rfl
    have htexel : texRead (combineBody s d s.mem) D x y = _ := paint_texel_apart hwf hxy fun m' hm' =>
      combinePixel_apart hm' (by simp [hrs]) _ _ _ _
    rw [hrs, constWeight, hone, combinePixel_constant] at htexel
    exact htexel

end Sys2Proof.Machine

/-! NOP: normal completion and nothing else (49_control.md R395). -/

namespace Sys2Proof.Machine

/-- NOP checks nothing, so that it answers the completed state from every state. -/
theorem exec_nop (s : State) : exec .nop s = .next (finish s) := rfl

/-- Completing clears BUSY, sets DONE and keeps the other bits of STATUS (60_exceptions.md R400). -/
theorem finish_endedNormally (s : State) : EndedNormally s (finish s) := finish_status s

/-- Completing writes no field of the state but STATUS. -/
theorem finish_eq_status_update (s : State) : finish s = { s with status := (finish s).status } := rfl

/-- Settles O30: NOP is `finish`, which ends normally and writes STATUS alone. -/
theorem nopCompletes : Obligations.NopCompletes := fun s =>
  ⟨finish s, exec_nop s, finish_endedNormally s, finish_eq_status_update s⟩

end Sys2Proof.Machine

/-! The error fields ERR, ERRCODE and ERRINFO: what a step does to them, and the interrupt output
(60_exceptions.md R400 to R402, R410; 10_state.md R44, R45). -/

namespace Sys2Proof.Machine

/-! ## The error fields over a step -/

/-- `t` has the error fields of `s`. -/
def SameError (s t : State) : Prop :=
  t.status.err = s.status.err ∧ t.status.errcode = s.status.errcode ∧ t.errinfo = s.errinfo

/-- What can happen to the error fields from `s` to `t`: they stay, they are cleared together, or, with no
error before it, one is taken (10_state.md R44, R45). -/
inductive ErrorMoved (s t : State) : Prop
  | kept : SameError s t → ErrorMoved s t
  | cleared : t.status.err = false → t.status.errcode = 0 → t.errinfo = 0 → ErrorMoved s t
  | taken (e : CmdError) : s.status.err = false → t.status.err = true → t.status.errcode = codeOf e.code →
      ErrorMoved s t

/-- No code passes E_BUS (60_exceptions.md R401). -/
theorem codeOf_le (c : ErrCode) : (codeOf c).toNat ≤ 0x0B := by cases c <;> decide

theorem ErrorMoved.fieldsRight {s t : State} (h : ErrorMoved s t) (hs : ErrorFieldsRight s) : ErrorFieldsRight t := by
  cases h with
  | kept h =>
    obtain ⟨herr, hcode, hinfo⟩ := h
    rwa [ErrorFieldsRight, herr, hcode, hinfo]
  | cleared herr hcode hinfo => exact ⟨fun _ => ⟨hcode, hinfo⟩, by simp [hcode]⟩
  | taken e _ herr hcode =>
    exact ⟨fun h => absurd (h.symm.trans herr) Bool.false_ne_true, hcode ▸ codeOf_le e.code⟩

/-- Where ERR stays 1 nothing is cleared and nothing taken (10_state.md R45). -/
theorem ErrorMoved.first_kept {s t : State} (h : ErrorMoved s t) (hs : s.status.err = true)
    (ht : t.status.err = true) : t.status.errcode = s.status.errcode ∧ t.errinfo = s.errinfo := by
  cases h with
  | kept h =>
    obtain ⟨-, hfields⟩ := h
    exact hfields
  | cleared herr => exact absurd (herr.symm.trans ht) Bool.false_ne_true
  | taken _ herr => exact absurd (herr.symm.trans hs) Bool.false_ne_true

theorem SameError.trans {s t u : State} (h : SameError s t) (h' : SameError t u) : SameError s u := by
  obtain ⟨herr, hcode, hinfo⟩ := h
  obtain ⟨herr', hcode', hinfo'⟩ := h'
  exact ⟨herr'.trans herr, hcode'.trans hcode, hinfo'.trans hinfo⟩

theorem ErrorMoved.trans_same {s t u : State} (h : ErrorMoved s t) (h' : SameError t u) : ErrorMoved s u := by
  obtain ⟨herr, hcode, hinfo⟩ := h'
  cases h with
  | kept h => exact .kept (h.trans ⟨herr, hcode, hinfo⟩)
  | cleared e c i => exact .cleared (herr.trans e) (hcode.trans c) (hinfo.trans i)
  | taken e hs ht c => exact .taken e hs (herr.trans ht) (hcode.trans c)

/-- Taking an error keeps the fields of a first one (10_state.md R45). -/
theorem raiseError_errorMoved {s u : State} (h : SameError s u) (e : CmdError) : ErrorMoved s (raiseError u e) := by
  obtain ⟨herr, hcode, hinfo⟩ := h
  cases hs : s.status.err with
  | false => exact .taken e hs rfl (by simp [herr, hs])
  | true => exact .kept ⟨by simp [hs], by simp [herr, hs, hcode], by simp [herr, hs, hinfo]⟩

/-! ## The error fields over each agent's move -/

theorem buildPerm_sameError (s : State) : SameError s (buildPerm s) := by rw [buildPerm_eq]; exact ⟨rfl, rfl, rfl⟩

theorem closeRace_sameError (s : State) : SameError s (closeRace s) := by rw [closeRace_eq]; exact ⟨rfl, rfl, rfl⟩

theorem openResult_sameError (i : Instr) (s : State) : SameError s (openResult i s) := by
  rw [openResult_eq]; exact ⟨rfl, rfl, rfl⟩

/-- A command ends with the error fields it found, or takes an error. -/
theorem exec_errorMoved {i : Instr} {s t : State} (h : exec i s = .next t) : ErrorMoved s t := by
  rcases exec_next h with ⟨e, rfl⟩ | ⟨-, p, rfl⟩ | ⟨-, rfl⟩ | ⟨n, u, -, -, hu, m', sc, fx, -, ht⟩
  · exact raiseError_errorMoved ⟨rfl, rfl, rfl⟩ e
  · exact .kept ⟨rfl, rfl, rfl⟩
  · exact .kept ⟨rfl, rfl, rfl⟩
  · have hsame : SameError s u := by
      rcases hu with rfl | rfl
      · exact ⟨rfl, rfl, rfl⟩
      · exact buildPerm_sameError s
    rcases ht with rfl | ⟨-, rfl⟩
    · exact .kept hsame
    · exact raiseError_errorMoved (u := { u with mem := m', scratch := sc, freeIx := fx }) hsame busError

theorem engineMoved_errorMoved {s t : State} (h : EngineMoved s t) : ErrorMoved s t := by
  cases h with
  | nothing => exact .kept ⟨rfl, rfl, rfl⟩
  | undecoded e => exact (raiseError_errorMoved ⟨rfl, rfl, rfl⟩ e).trans_same (closeRace_sameError _)
  | ended hu => exact exec_errorMoved hu
  | raced hu => exact (exec_errorMoved hu).trans_same (closeRace_sameError _)
  | opened hu =>
    exact ((exec_errorMoved hu).trans_same (openResult_sameError _ _)).trans_same (closeRace_sameError _)

/-- Abandoning a command records no error (70_reset_and_hazards.md R453). -/
theorem abandon_sameError (s : State) : SameError s (abandon s) := by
  rcases abandon_cases s with ⟨-, e⟩ | ⟨-, ⟨-, e⟩ | ⟨d, -, e⟩⟩ <;> rw [e]
  · exact ⟨rfl, rfl, rfl⟩
  · exact closeRace_sameError { s with status := statusStopped s.status }
  · exact closeRace_sameError { spoil s d with status := statusStopped s.status }

/-- A 1 to ERR clears the three fields together (10_state.md R44). -/
theorem writeStatus_errorMoved (s : State) (v : Word) : ErrorMoved s (writeStatus s v) := by
  have herr : (writeStatus s v).status.err = (s.status.err && !v.getLsbD 2) := rfl
  cases hv : v.getLsbD 2 with
  | false =>
    have hclear : ¬ v.getLsbD 2 = true := Bool.eq_false_iff.1 hv
    exact .kept ⟨by rw [herr, hv, Bool.not_false, Bool.and_true], if_neg hclear, if_neg hclear⟩
  | true => exact .cleared (by rw [herr, hv, Bool.not_true, Bool.and_false]) (if_pos hv) (if_pos hv)

/-- Of the registers only STATUS, and CTRL by the soft reset, reach the error fields. -/
theorem writeReg_errorMoved (s : State) (r : Reg) (v : Word) : ErrorMoved s (writeReg s r v) := by
  cases r with
  | status => exact writeStatus_errorMoved s v
  | ctrl =>
    simp only [writeReg, writeCtrl]
    split
    · exact .cleared rfl rfl rfl
    · exact .kept ⟨rfl, rfl, rfl⟩
  | cmd =>
    simp only [writeReg, writeCmd]
    split <;> exact .kept ⟨rfl, rfl, rfl⟩
  | tdBase | tdSize | param | id | version | errinfo | resRg | resBa | reserved => exact .kept ⟨rfl, rfl, rfl⟩

theorem setResetPin_errorMoved (s : State) (level : Bool) : ErrorMoved s (setResetPin s level) := by
  unfold setResetPin
  split
  · exact .kept (abandon_sameError s)
  · split
    · exact .cleared rfl rfl rfl
    · exact .kept ⟨rfl, rfl, rfl⟩

theorem hostMoved_errorMoved {s t : State} (h : HostMoved s t) : ErrorMoved s t := by
  cases h with
  | register r v => exact writeReg_errorMoved s r v
  | resetPin level => exact setResetPin_errorMoved s level
  | nothing | readData | memory | race | port => exact .kept ⟨rfl, rfl, rfl⟩

/-- Taking an input off the list is no part of what a step does to the error fields (log 6). -/
theorem step_errorMoved {s t : State} (h : step s = .next t) : ErrorMoved { s with inputs := s.inputs.tail } t := by
  rcases step_cases s with e | ⟨i, e⟩ <;> rw [e] at h
  · exact engineMoved_errorMoved (engineTurn_next h)
  · exact hostMoved_errorMoved (hostMove_next h)

/-- Settles O10: a step keeps the error fields, clears them together, or takes an error where there was none. -/
theorem stepKeepsErrorFields : Obligations.StepKeepsErrorFields := fun _ _ h =>
  ⟨(step_errorMoved h).fieldsRight, (step_errorMoved h).first_kept⟩

/-! ## The interrupt output -/

/-- A command that answers a next state has set DONE (60_exceptions.md R400, R402). -/
theorem exec_done {i : Instr} {s t : State} (h : exec i s = .next t) : t.status.done = true := by
  rcases exec_next h with ⟨e, rfl⟩ | ⟨-, p, rfl⟩ | ⟨-, rfl⟩ | ⟨n, u, -, -, -, m', sc, fx, -, ht⟩
  · rfl
  · rfl
  · rfl
  · rcases ht with rfl | ⟨-, rfl⟩ <;> rfl

theorem irq_iff (s : State) : irq s = true ↔
    (s.ctrl.ieDone = true ∧ s.status.done = true) ∨
      (s.ctrl.ieErr = true ∧ (s.status.err = true ∨ s.status.ovr = true)) := by
  simp only [irq, Bool.or_eq_true, Bool.and_eq_true]

/-- IRQ is low with no source set. -/
theorem irq_no_source {s : State} (hdone : s.status.done = false) (herr : s.status.err = false)
    (hovr : s.status.ovr = false) : irq s = false := by simp [irq, hdone, herr, hovr]

/-- IRQ is low with no source enabled. -/
theorem irq_disabled {s : State} (h : s.ctrl = ⟨false, false⟩) : irq s = false := by simp [irq, h]

/-- The bits of a mask that a word covers are set in it. -/
theorem getLsbD_of_and_eq {v m : Word} (h : v &&& m = m) {k : Nat} (hk : m.getLsbD k = true) :
    v.getLsbD k = true := by
  rw [← h, BitVec.getLsbD_and] at hk
  exact Bool.and_elim_left hk

/-- The bits of a mask that a word misses are clear in it. -/
theorem getLsbD_of_and_zero {v m : Word} (h : v &&& m = 0) {k : Nat} (hk : m.getLsbD k = true) :
    v.getLsbD k = false := by
  have hbit : (v &&& m).getLsbD k = false := h ▸ BitVec.getLsbD_zero
  rwa [BitVec.getLsbD_and, hk, Bool.and_true] at hbit

/-- Writing 1 to DONE, ERR and OVR lowers IRQ. -/
theorem irq_writeStatus {s : State} {v : Word} (h : v &&& 0xE = 0xE) : irq (writeStatus s v) = false := by
  have hdone : v.getLsbD 1 = true := getLsbD_of_and_eq h (by decide)
  have herr : v.getLsbD 2 = true := getLsbD_of_and_eq h (by decide)
  have hovr : v.getLsbD 3 = true := getLsbD_of_and_eq h (by decide)
  apply irq_no_source <;> simp [hdone, herr, hovr]

/-- Clearing both enables, with no soft reset, lowers IRQ. -/
theorem irq_writeCtrl {s : State} {v : Word} (h : v &&& 0x80000003 = 0) : irq (writeReg s .ctrl v) = false := by
  have hreset : v.getLsbD 31 = false := getLsbD_of_and_zero h (by decide)
  have hdone : v.getLsbD 0 = false := getLsbD_of_and_zero h (by decide)
  have herr : v.getLsbD 1 = false := getLsbD_of_and_zero h (by decide)
  rw [writeReg_ctrl hreset]
  exact irq_disabled (by rw [ctrlOfWord, hdone, herr])

/-- Settles O25: DONE is set at a command's end and ERR by an error, and the two writes clear every source or
every enable. -/
theorem interruptFollowsStatus : Obligations.InterruptFollowsStatus := by
  refine ⟨irq_iff, ?ended, ?raised, fun _ _ => irq_writeStatus, fun _ _ => irq_writeCtrl⟩
  case ended =>
    intro i s t h hie
    have ht : OnlyCommandEnd s t := (exec_next h).frame.1
    have hctrl : t.ctrl = s.ctrl := by rw [ht]
    exact (irq_iff t).2 (.inl ⟨by rw [hctrl, hie], exec_done h⟩)
  case raised => exact fun s e hie => (irq_iff _).2 (.inr ⟨hie, .inl rfl⟩)

end Sys2Proof.Machine

/-! How every command ends: the order of its checks, its windows and its body, said once as a function of what
the memory port answers (60_exceptions.md R400 to R406, R412; 20_memory.md R99). -/

namespace Sys2Proof.Machine

/-! ## Errors are precise -/

/-- The state with ERR set and other contents of ERRCODE and ERRINFO. -/
def setFirstError (code : BitVec 8) (info : Word) (s : State) : State :=
  { s with status := { s.status with err := true, errcode := code }, errinfo := info }

theorem setFirstError_unseen (code : BitVec 8) (info : Word) : Unseen (setFirstError code info) := by
  constructor <;> intros <;> rfl

/-- The state with other contents of ERRCODE and ERRINFO where ERR = 0. -/
def setNoError (code : BitVec 8) (info : Word) (s : State) : State :=
  { s with
    status := { s.status with errcode := if s.status.err then s.status.errcode else code }
    errinfo := if s.status.err then s.errinfo else info }

/-- Taking an error writes both fields or, after a first error, neither (10_state.md R45). -/
theorem raiseError_setNoError (code : BitVec 8) (info : Word) (s : State) (e : CmdError) :
    raiseError (setNoError code info s) e = setNoError code info (raiseError s e) := by
  cases h : s.status.err <;> simp [raiseError, setNoError, statusFailed, h]

theorem setNoError_unseen (code : BitVec 8) (info : Word) : Unseen (setNoError code info) where
  raiseError := raiseError_setNoError code info
  cfg _ := rfl
  snap _ := rfl
  mem _ := rfl
  port _ := rfl
  finish _ := rfl
  setRes _ _ := rfl
  spoil _ _ := rfl
  setMem _ _ := rfl
  releaseScratch _ := rfl
  loadCells _ := rfl
  loadInputs _ := rfl

/-- The state with table `pt` built (10_state.md R60). -/
def withTable (pt : Array (BitVec 12)) (s : State) : State :=
  { s with perm := pt, status := statusPermBuilt s.status }

theorem buildPerm_ite (s : State) : buildPerm s =
    if s.status.permReady then s else withTable (permTable s.cfg.permSeed s.cfg.permTaps).toArray s := rfl

/-- Building the table carries along a change that does not reach it. -/
theorem buildPerm_map {f : State → State} {s : State} (hcfg : (f s).cfg = s.cfg)
    (hready : (f s).status.permReady = s.status.permReady) (hset : ∀ pt, withTable pt (f s) = f (withTable pt s)) :
    buildPerm (f s) = f (buildPerm s) := by
  rw [buildPerm_ite, buildPerm_ite, hcfg, hready, hset, apply_ite f]

/-- With no error of the port in the body, a command that ends otherwise than by a check leaves the error
fields as they were (60_exceptions.md R412). -/
theorem exec_precise {i : Instr} {s t : State} (hport : s.port ≠ .bodyError) (h : exec i s = .next t) :
    SameError s t ∨ ∃ e, t = raiseError s e := by
  rcases exec_next h with ⟨e, rfl⟩ | ⟨-, p, rfl⟩ | ⟨-, rfl⟩ | ⟨n, u, -, -, hu, m', sc, fx, -, ht⟩
  · exact .inr ⟨e, rfl⟩
  · exact .inl ⟨rfl, rfl, rfl⟩
  · exact .inl ⟨rfl, rfl, rfl⟩
  · obtain ⟨hsame, hu⟩ : SameError s u ∧ u.port = s.port := by
      rcases hu with rfl | rfl
      · exact ⟨⟨rfl, rfl, rfl⟩, rfl⟩
      · exact ⟨buildPerm_sameError s, by rw [buildPerm_eq]⟩
    rcases ht with rfl | ⟨hbus, rfl⟩
    · exact .inl hsame
    · exact absurd (hu.symm.trans hbus) hport

/-- Settles O14: a command without an error of the port in its body ends in its checks or leaves the error
fields alone, and what they held before it is carried along. -/
theorem errorsArePrecise : Obligations.ErrorsArePrecise := by
  refine ⟨?precise, ?first, ?none⟩
  case precise =>
    intro i s t hport herr h
    rcases exec_precise hport h with ⟨he, hcode, hinfo⟩ | ⟨e, rfl⟩
    · exact .inl ⟨he.trans herr, hcode, hinfo⟩
    · exact .inr ⟨e, raiseError_endedWithError s e, raiseError_onlyError s e⟩
  case first =>
    intro i s code info
    exact exec_map (setFirstError_unseen code info) i s fun _ _ _ _ _ _ =>
      ⟨buildPerm_map (f := setFirstError code info) rfl rfl fun _ => rfl, fun _ => rfl⟩
  case none =>
    intro i s code info herr
    have hs : setNoError code info s = { s with status := { s.status with errcode := code }, errinfo := info } := by
      simp [setNoError, herr]
    rw [← hs]
    exact exec_map (setNoError_unseen code info) i s fun _ _ _ _ _ _ =>
      ⟨buildPerm_map (f := setNoError code info) rfl rfl fun _ => rfl, fun _ => rfl⟩

/-! ## The stages of a command -/

/-- The state with the memory port's answer `p` (log 8). -/
def withPort (p : PortAnswer) (s : State) : State := { s with port := p }

theorem withPort_self {p : PortAnswer} {s : State} (h : s.port = p) : withPort p s = s := by rw [← h]; rfl

/-- The state a body starts from: `s`, or `s` with its table built or its list read. -/
inductive BodyState (s : State) : State → Prop
  | plain : BodyState s s
  | table : BodyState s (buildPerm s)
  | cells : BodyState s (loadCells s)
  | inputs : BodyState s (loadInputs s)

/-- What the table and the scratch storage leave as it is. -/
theorem BodyState.keeps {s u : State} (h : BodyState s u) :
    u.cfg = s.cfg ∧ u.status.err = s.status.err ∧ u.resRg = s.resRg ∧ u.resBa = s.resBa := by
  cases h with
  | plain | cells | inputs => exact ⟨rfl, rfl, rfl, rfl⟩
  | table => rw [buildPerm_eq]; exact ⟨rfl, rfl, rfl, rfl⟩

/-- How a command is put together of the shared operations, as a function of the memory port's answer: checks
that an error in the body does not change, the windows of the ranges it names, and a body. A command that uses
no slot may do without. -/
inductive Stages (i : Instr) (s : State) : (PortAnswer → Result) → Prop
  | registers {t : PortAnswer → State} : usedSlots i = [] → Stages i s fun p => .next (t p)
  | checks {cs : PortAnswer → List Check} {go : PortAnswer → Result} : cs .bodyError = cs .ok → Stages i s go →
      Stages i s fun p => afterChecks (withPort p s) (cs p) (go p)
  | windows {ns : List Extent} {es : PortAnswer → List Extent} {go : PortAnswer → Result} :
      ns ⊆ footprint s.snap s.mem i → (∀ p, es p = ns) → Stages i s go →
      Stages i s fun p => unlessSideEffects (withPort p s) (es p) (go p)
  | sample {ns : List Extent} {es : PortAnswer → List Extent} {f : PortAnswer → Memory → Pixel} :
      ns ⊆ footprint s.snap s.mem i → (∀ p, es p = ns) →
      Stages i s fun p => runSample (withPort p s) (es p) (f p)
  | texture {u : State} {ns : List Extent} {d : PortAnswer → Tex} {es : PortAnswer → List Extent}
      {body : PortAnswer → Memory → Memory} : BodyState s u →
      ns ⊆ footprint s.snap s.mem i → (∀ p, es p = ns) →
      Stages i s fun p => runTexture (withPort p u) (d p) (es p) (body p)
  | release {go : PortAnswer → Result} : Stages i s go → Stages i s fun p => releasing (go p)

theorem buildPerm_withPort (p : PortAnswer) (s : State) : buildPerm (withPort p s) = withPort p (buildPerm s) :=
  buildPerm_map (f := withPort p) rfl rfl fun _ => rfl

theorem loadCells_withPort (p : PortAnswer) (s : State) : loadCells (withPort p s) = withPort p (loadCells s) := rfl

theorem loadInputs_withPort (p : PortAnswer) (s : State) : loadInputs (withPort p s) = withPort p (loadInputs s) := rfl

/-- An error in the body is none in a list read (60_exceptions.md R406). -/
theorem listReadCheck_bodyError (k : Nat) : listReadCheck .bodyError k = listReadCheck .ok k := rfl

theorem listReadChecks_bodyError (n k : Nat) : listReadChecks .bodyError k n = listReadChecks .ok k n := by
  induction n generalizing k with
  | zero => rfl
  | succ n ih => simp only [listReadChecks, listReadCheck_bodyError, ih]

theorem inputChecks_bodyError (rs : List InputRecord) (k : Nat) :
    inputChecks .bodyError k rs = inputChecks .ok k rs := by
  induction rs generalizing k with
  | nil => rfl
  | cons r rs ih => simp only [inputChecks, listReadCheck_bodyError, ih]

theorem listChecks_bodyError (i : Instr) (k : Snapshot) (m : Memory) :
    listChecks i k m .bodyError = listChecks i k m .ok := by
  cases i with
  | cells => exact listReadChecks_bodyError _ 0
  | linearCombine => exact inputChecks_bodyError _ 0
  | _ => rfl

/-- The ranges of the slots and of the list of a command are those it names. -/
theorem slotExtents_footprint (i : Instr) (s : State) :
    slotExtents s.snap (usedSlots i) ⊆ footprint s.snap s.mem i := List.subset_append_left _ _

theorem listExtents_footprint (i : Instr) (s : State) : listExtents s.snap s.mem i ⊆ footprint s.snap s.mem i :=
  List.subset_append_right _ _

/-- Every command is put together in this way. -/
theorem exec_stages (i : Instr) (s : State) : Stages i s fun p => exec i (withPort p s) := by
  have hslots := slotExtents_footprint i s
  have hlist := listExtents_footprint i s
  cases i with
  | nop | pixInit8 | pixInit32 | pixAdd | pixMulc | pixOver | pixScreen => exact .registers rfl
  | pixLerp => exact .checks rfl (.registers rfl)
  | smpNearest | smpBilinear | smpFiltered | smpGradient => exact .checks rfl (.sample hslots fun _ => rfl)
  | texCopy | glowrect | colorMatrix | coordMatrix | colorRemap | coordRemap | derive | ternary | paste | bump =>
    exact .checks rfl (.texture .plain hslots fun _ => rfl)
  | noise =>
    simp only [exec, execNoise, buildPerm_withPort]
    exact .checks rfl (.texture .table hslots fun _ => rfl)
  | blur => exact .checks rfl (.release (.texture .plain hslots fun _ => rfl))
  | cells =>
    simp only [exec, execCells, loadCells_withPort]
    exact .checks rfl (.windows hlist (fun _ => rfl) (.checks (listChecks_bodyError _ s.snap s.mem)
      (.release (.texture .cells hslots fun _ => rfl))))
  | linearCombine =>
    have hpointer := List.Subset.trans (List.cons_subset_cons _ (List.nil_subset _)) hlist
    have htextures := List.append_subset.2 ⟨hslots, List.Subset.trans (List.subset_cons_self _ _) hlist⟩
    simp only [exec, execLinearCombine, loadInputs_withPort]
    exact .checks rfl (.windows hpointer (fun _ => rfl) (.checks (listChecks_bodyError _ s.snap s.mem)
      (.release (.texture .inputs htextures fun _ => rfl))))

/-! ## Every command ends -/

theorem reachesWindow_mono {c : Config} {es fs : List Extent} (h : es ⊆ fs) (hes : reachesWindow c es = true) :
    reachesWindow c fs = true := by
  obtain ⟨e, he, hmeets⟩ := List.any_eq_true.1 hes
  exact List.any_eq_true.2 ⟨e, h he, hmeets⟩

/-- Command `i` from `s` answers a next state, or is refused for a window that a range it names meets
(20_memory.md R99). -/
def Ends (i : Instr) (s : State) (r : Result) : Prop :=
  (∃ t, r = .next t) ∨ (reachesWindow s.cfg (footprint s.snap s.mem i) = true ∧ r = .refused .sideEffects)

theorem afterChecks_ends {i : Instr} {s u : State} (cs : List Check) {go : Result} (hgo : Ends i s go) :
    Ends i s (afterChecks u cs go) := by
  rcases afterChecks_cases u cs go with ⟨e, -, h⟩ | ⟨-, h⟩ <;> rw [h]
  · exact .inl ⟨_, rfl⟩
  · exact hgo

theorem unlessSideEffects_ends {i : Instr} {s u : State} {es : List Extent} {go : Result} (hcfg : u.cfg = s.cfg)
    (hes : es ⊆ footprint s.snap s.mem i) (hgo : Ends i s go) : Ends i s (unlessSideEffects u es go) := by
  rcases unlessSideEffects_cases u es go with ⟨hw, h⟩ | ⟨-, h⟩ <;> rw [h]
  · exact .inr ⟨reachesWindow_mono hes (hcfg ▸ hw), rfl⟩
  · exact hgo

theorem Stages.ends {i : Instr} {s : State} {r : PortAnswer → Result} (h : Stages i s r) (p : PortAnswer) :
    Ends i s (r p) := by
  induction h with
  | registers => exact .inl ⟨_, rfl⟩
  | @checks cs go _ _ ih => exact afterChecks_ends (cs p) ih
  | windows hns hes _ ih => exact unlessSideEffects_ends rfl (hes p ▸ hns) ih
  | sample hns hes =>
    refine unlessSideEffects_ends rfl (hes p ▸ hns) ?_
    split <;> exact .inl ⟨_, rfl⟩
  | texture hu hns hes =>
    obtain ⟨hcfg, -⟩ := hu.keeps
    refine unlessSideEffects_ends hcfg (hes p ▸ hns) ?_
    split <;> exact .inl ⟨_, rfl⟩
  | release _ ih =>
    rcases ih with ⟨t, h⟩ | ⟨hw, h⟩
    · exact .inl ⟨releaseScratch t, releasing_next.2 ⟨t, h, rfl⟩⟩
    · exact .inr ⟨hw, congrArg releasing h⟩

theorem exec_ends (i : Instr) (s : State) : Ends i s (exec i s) := (exec_stages i s).ends s.port

/-- Settles O13: no stage of a command faults, and only a window refuses it. -/
theorem everyCommandEnds : Obligations.EveryCommandEnds := by
  intro i s
  rcases exec_ends i s with ⟨t, h⟩ | ⟨hw, h⟩
  · exact ⟨.inl ⟨t, h, exec_not_busy h, exec_done h⟩, fun _ => ⟨t, h⟩⟩
  · exact ⟨.inr h, fun hno => absurd (hno.symm.trans hw) Bool.false_ne_true⟩

/-! ## E_BUS in the body -/

/-- `t` is the end `u` of a command from `s` with `E_BUS` in its body instead: no result, and any memory,
scratch storage and counter (60_exceptions.md R406; log 8, log 9). -/
def EndsByBus (s u t : State) : Prop :=
  t = { u with
    port := .bodyError
    status := { u.status with err := true, errcode := 0x0B }
    errinfo := 0
    resRg := s.resRg
    resBa := s.resBa
    mem := t.mem
    scratch := t.scratch
    freeIx := t.freeIx }

/-- `bus` answers, under a port that fails in the body, for a command from `s` that answers `ok` under one that
does not: `E_BUS` where `ok` ends normally, the same error where `ok` ends with one. -/
def BusAnswers (s : State) (ok bus : Result) : Prop :=
  ∀ u, ok = .next u →
    (u.status.err = false → ∃ t, bus = .next t ∧ EndsByBus s u t) ∧
    (u.status.err = true → bus = .next (withPort .bodyError u))

/-- A check that fails ends the command the same way under both ports. -/
theorem afterChecks_busAnswers {s : State} {cs cs' : List Check} {ok bus : Result} (hsame : cs' = cs)
    (h : BusAnswers s ok bus) :
    BusAnswers s (afterChecks (withPort .ok s) cs ok) (afterChecks (withPort .bodyError s) cs' bus) := by
  rw [hsame]
  cases hcs : firstError cs with
  | none => rwa [afterChecks_pass hcs, afterChecks_pass hcs]
  | some e =>
    rw [afterChecks_fail hcs, afterChecks_fail hcs]
    rintro u ⟨⟩
    exact ⟨fun h => absurd h.symm Bool.false_ne_true, fun _ => rfl⟩

/-- A window refuses the command under both ports. -/
theorem unlessSideEffects_busAnswers {s u : State} {es es' : List Extent} {ok bus : Result} (hsame : es' = es)
    (h : BusAnswers s ok bus) :
    BusAnswers s (unlessSideEffects (withPort .ok u) es ok) (unlessSideEffects (withPort .bodyError u) es' bus) := by
  rw [hsame]
  unfold unlessSideEffects
  rw [show (withPort .ok u).cfg = (withPort .bodyError u).cfg from rfl]
  split
  · rintro u ⟨⟩
  · exact h

/-- A body that ends normally under the one port ends with `E_BUS` under the other. -/
theorem next_busAnswers {s u t : State} (hu : u.status.err = false) (ht : EndsByBus s u t) :
    BusAnswers s (.next u) (.next t) := by
  rintro u ⟨⟩
  exact ⟨fun _ => ⟨t, rfl, ht⟩, fun h => absurd (hu.symm.trans h) Bool.false_ne_true⟩

theorem releasing_busAnswers {s : State} {ok bus : Result} (h : BusAnswers s ok bus) :
    BusAnswers s (releasing ok) (releasing bus) := by
  intro u hu
  obtain ⟨u, hok, rfl⟩ := releasing_next.1 hu
  obtain ⟨hnormal, herror⟩ := h u hok
  constructor
  · intro he
    obtain ⟨t, hbus, ht⟩ := hnormal he
    refine ⟨releaseScratch t, releasing_next.2 ⟨t, hbus, rfl⟩, ?_⟩
    rw [ht]
    rfl
  · exact fun he => releasing_next.2 ⟨_, herror he, rfl⟩

/-- Taking `E_BUS` as the first error. -/
theorem statusFailed_bus {f : Status} (h : f.err = false) :
    statusFailed f .bus = { statusFinished f with err := true, errcode := 0x0B } := by
  simp [statusFailed, statusFinished, codeOf, h]

theorem Stages.busAnswers {i : Instr} {s : State} {r : PortAnswer → Result} (h : Stages i s r)
    (hused : usedSlots i ≠ []) (herr : s.status.err = false) : BusAnswers s (r .ok) (r .bodyError) := by
  induction h with
  | registers hnone => exact absurd hnone hused
  | checks hcs _ ih => exact afterChecks_busAnswers hcs ih
  | windows _ hes _ ih => exact unlessSideEffects_busAnswers ((hes _).trans (hes _).symm) ih
  | sample _ hes =>
    refine unlessSideEffects_busAnswers ((hes _).trans (hes _).symm) (next_busAnswers herr ?_)
    simp [EndsByBus, raiseError, finish, withPort, setRes, busError, herr, statusFailed_bus]
  | texture hu _ hes =>
    obtain ⟨-, he, hrg, hba⟩ := hu.keeps
    rw [herr] at he
    refine unlessSideEffects_busAnswers ((hes _).trans (hes _).symm) (next_busAnswers he ?_)
    simp [EndsByBus, raiseError, finish, withPort, spoil, busError, he, hrg, hba, statusFailed_bus]
  | release _ ih => exact releasing_busAnswers ih

/-- The destination of a command that ends normally passes its checks. -/
theorem dest_ok_of_exec {i : Instr} {s u : State} {d : Slot} (h : exec i s = .next u) (hu : u.status.err = false)
    (hd : destSlot i = some d) : SlotOk s.snap d := by
  cases hc : firstError (registerChecks i s.snap) with
  | none => exact dest_ok hd hc
  | some e =>
    obtain ⟨t, ht, ⟨hstatus, -⟩, -⟩ := failsWith_of_registerChecks hc
    cases h.symm.trans ht
    exact absurd (hu.symm.trans (congrArg Status.err hstatus)) Bool.false_ne_true

/-- A sampling command whose slot passes its checks ends with `E_BUS` and no other effect. -/
theorem sample_failsWith_bus {i : Instr} {s : State} {a : Slot} {p : Memory → Pixel} (hport : s.port = .bodyError)
    (ha : SlotOk s.snap a) (hwin : reachesWindow s.cfg [(slotTex s.snap a).extent] = false)
    (hi : exec i s = afterChecks s (slotChecks s.snap [a]) (runSample s [(slotTex s.snap a).extent] p)) :
    FailsWith i s ⟨.bus, 0⟩ := by
  have hchecks : firstError (slotChecks s.snap [a]) = none := slotChecks_none.2 (by simpa using ha)
  have hrun : exec i s = .next (raiseError s busError) := by
    rw [hi, afterChecks_pass hchecks, runSample, unlessSideEffects_pass hwin, if_pos hport]
  exact ⟨_, hrun, raiseError_endedWithError s busError, raiseError_onlyError s busError⟩

/-- Settles O15: each stage under a port that fails in the body beside the same stage under one that does not. -/
theorem busErrorLeavesOnlyTheDestinationOpen : Obligations.BusErrorLeavesOnlyTheDestinationOpen := by
  refine ⟨?command, ?sample⟩
  case command =>
    intro i s u hused hport herr hu
    obtain ⟨hnormal, herror⟩ := (exec_stages i s).busAnswers hused herr u hu
    rw [withPort_self hport] at hnormal herror
    refine ⟨fun he => ?_, herror⟩
    obtain ⟨t, ht, hbus⟩ := hnormal he
    obtain ⟨-, -, -, hmem, hdest⟩ := (exec_next ht).frame
    exact ⟨t, ht, hbus, hmem, fun d hd => ⟨dest_ok_of_exec (s := withPort .ok s) hu he hd, hdest d hd⟩⟩
  case sample =>
    intro s a hport ha hwin
    exact ⟨fun _ => sample_failsWith_bus hport ha hwin rfl, fun _ => sample_failsWith_bus hport ha hwin rfl,
      fun _ => sample_failsWith_bus hport ha hwin rfl, sample_failsWith_bus hport ha hwin rfl⟩

end Sys2Proof.Machine

/-! The resets: the state after one, the soft reset, and the reset input asserted, held and released
(70_reset_and_hazards.md R450 to R453). -/

namespace Sys2Proof.Machine

/-! ## The reset state -/

/-- Every register but the two constants reads 0 after reset (R451). -/
theorem readReg_reset_zero {r : Reg} (hid : r ≠ .id) (hversion : r ≠ .version) : readReg State.reset r = 0 := by
  cases r with
  | id => exact absurd rfl hid
  | version => exact absurd rfl hversion
  | tdBase n => simp [readReg, State.reset, tdBaseWord, place]
  | tdSize n => simp [readReg, State.reset, tdSizeWord, place]
  | param k => simp [readReg, State.reset]
  | ctrl | status | cmd | errinfo | resRg | resBa | reserved => rfl

/-- Settles O11: the registers one by one, and the invariants of a state with nothing listed, running, built or
failed. -/
theorem resetStateIsRight : Obligations.ResetStateIsRight :=
  ⟨rfl, rfl, fun _ => readReg_reset_zero, irq_disabled rfl,
    ⟨.nil, by simp [State.reset]⟩, ⟨by simp [State.reset], by simp [State.reset]⟩,
    raceFieldsRight_of_idle rfl rfl, fun hready => absurd hready Bool.false_ne_true,
    ⟨fun _ => ⟨rfl, rfl⟩, by decide⟩⟩

/-! ## An abandoned command (R453) -/

/-- The destination of the running command is that of its decoded word. -/
theorem runningDest_some {s : State} {t : Tex} (h : runningDest s = some t) :
    ∃ i d, decode s.snap.cmd = .command i ∧ destSlot i = some d ∧ t = slotTex s.snap d := by
  unfold runningDest at h
  split at h
  · rename_i i hi
    split at h
    · rename_i d hd
      split at h
      · cases h; exact ⟨i, d, hi, hd, rfl⟩
      · cases h
    · cases h
  · cases h

/-- With no command running there is nothing to abandon. -/
theorem abandon_of_idle {s : State} (h : s.status.busy = false) : abandon s = s := by simp [abandon, h]

theorem abandon_mem_of_idle {s : State} (h : s.status.busy = false) : (abandon s).mem = s.mem := by
  rw [abandon_of_idle h]

/-- Abandoning a command clears BUSY and changes nothing else but memory, the record of races and the model's
counter: DONE is not set and no error is recorded. -/
theorem abandon_eq (s : State) :
    abandon s = { s with
      status := { s.status with busy := false }
      mem := (abandon s).mem
      raced := (abandon s).raced
      freeIx := (abandon s).freeIx } := by
  rcases abandon_cases s with ⟨hb, e⟩ | ⟨-, ⟨-, e⟩ | ⟨d, -, e⟩⟩ <;> rw [e]
  · rw [← hb]
  · rw [closeRace_eq]; rfl
  · rw [closeRace_eq]; rfl

/-- Of memory an abandoned command leaves open its destination and the bytes a host has raced for. -/
theorem abandon_opensOnlyTheRunning (s : State) : OpensOnlyTheRunning s (abandon s).mem := by
  intro a hraced hdest
  rcases abandon_cases s with ⟨-, e⟩ | ⟨-, ⟨-, e⟩ | ⟨t, ht, e⟩⟩ <;> rw [e]
  · exact closeRace_other (s := { s with status := statusStopped s.status }) hraced
  · obtain ⟨i, d, hi, hd, rfl⟩ := runningDest_some ht
    calc (closeRace { spoil s (slotTex s.snap d) with status := statusStopped s.status }).mem.read a
        = (spoil s (slotTex s.snap d)).mem.read a :=
          closeRace_other (s := { spoil s (slotTex s.snap d) with status := statusStopped s.status }) hraced
      _ = s.mem.read a := spoil_sameOutside s _ a (hdest i d hi hd)

/-! ## The registers after a reset (R451, R452) -/

theorem readReg_resetRegisters (s : State) (r : Reg) : readReg (resetRegisters s) r = readReg State.reset r := by
  cases r <;> rfl

/-- A CTRL write with bit 31 set is the soft reset, whatever else it holds (R452). -/
theorem writeReg_ctrl_softReset {v : Word} (h : v.getLsbD 31 = true) (s : State) :
    writeReg s .ctrl v = softReset s := by simp only [writeReg, writeCtrl, h, if_true]

/-! ## The reset input (R450) -/

theorem step_resetPin {s : State} {level : Bool} {rest : List Input} (hin : s.inputs = .resetPin level :: rest) :
    step s = .next (setResetPin { s with inputs := rest } level) := step_host hin (by simp)

/-- Asserted, the reset input abandons a running command; the registers but BUSY keep their values. -/
theorem setResetPin_assert (s : State) :
    setResetPin s true = { s with
      rst := true
      status := { s.status with busy := false }
      mem := (abandon s).mem
      raced := (abandon s).raced
      freeIx := (abandon s).freeIx } := by
  rw [setResetPin, if_pos rfl, abandon_eq]

/-- Released, it resets the registers. -/
theorem setResetPin_release {s : State} (h : s.rst = true) :
    setResetPin s false = resetRegisters { s with rst := false } := by
  rw [setResetPin, if_neg Bool.false_ne_true, if_pos h]
  rfl

/-- An engine held in reset does nothing. -/
theorem engineTurn_held {s : State} (h : s.rst = true) : engineTurn s = .next s := by simp [engineTurn, h]

/-- While the reset input is asserted a register write is ignored. -/
theorem step_writeRegister_held {s : State} {off : Nat} {v : BitVec 64} {rest : List Input} (hoff : off < 4096)
    (hr : s.rst = true) (ha : off % 4 = 0) (hin : s.inputs = .busWrite (regBase s.cfg + off) .w32 v :: rest) :
    step s = .next { s with inputs := rest } := by
  rw [step_host hin (by simp)]
  simp [hostMove, busWrite, inRegBlock, busWriteReg, regAccessOk, hoff, hr, ha]

/-- While the reset input is asserted the engine's turn passes. -/
theorem step_engine_held {s : State} {rest : List Input} (hr : s.rst = true)
    (hin : s.inputs = [] ∨ s.inputs = .engine :: rest) : step s = .next { s with inputs := s.inputs.tail } :=
  (step_engine hin).trans (engineTurn_held (s := { s with inputs := s.inputs.tail }) hr)

/-! ## The statement -/

theorem softReset_resets {s : State} {v : Word} (hv : v.getLsbD 31 = true) :
    (∀ r, readReg (writeReg s .ctrl v) r = readReg State.reset r) ∧
    (writeReg s .ctrl v).status = State.reset.status ∧
    OpensOnlyTheRunning s (writeReg s .ctrl v).mem ∧
    (s.status.busy = false → (writeReg s .ctrl v).mem = s.mem) := by
  rw [writeReg_ctrl_softReset hv]
  exact ⟨readReg_resetRegisters (abandon s), rfl, abandon_opensOnlyTheRunning s, abandon_mem_of_idle⟩

/-- Settles O12: a soft reset and the assertion of the reset input abandon the command; what is held does
nothing; the release resets the registers. -/
theorem resetsReturnResetValues : Obligations.ResetsReturnResetValues := by
  refine ⟨fun s v => softReset_resets, ?asserted, fun s rest hr => ⟨?write, ?empty, ?engine, ?released⟩⟩
  case asserted =>
    intro s rest hin
    exact ⟨_, step_resetPin hin, setResetPin_assert _, abandon_opensOnlyTheRunning { s with inputs := rest },
      abandon_mem_of_idle (s := { s with inputs := rest })⟩
  case write => exact fun off v hoff ha hin => step_writeRegister_held hoff hr ha hin
  case empty =>
    intro hin
    rw [step_engine_held (rest := rest) hr (.inl hin), hin, List.tail_nil, ← hin]
  case engine =>
    intro hin
    rw [step_engine_held hr (.inr hin), hin, List.tail_cons]
  case released =>
    intro hin
    have hstep : step s = .next (resetRegisters { s with inputs := rest, rst := false }) :=
      (step_resetPin hin).trans (congrArg _ (setResetPin_release (s := { s with inputs := rest }) hr))
    exact ⟨_, hstep, rfl, rfl, rfl, readReg_resetRegisters _⟩

end Sys2Proof.Machine
